-- ==== Sys2Proof/Word.lean ====
section
/-! DEFINITION. The word type of the framer: bytes. The capacity, length and bytes-written registers and the addresses
have the widths `CW` and `AW` of the instance (00_scope.md R4): they are counts, held as natural numbers (log 3). -/

namespace Sys2Proof

/-- A byte: an unsigned 8-bit value (00_scope.md section 6). -/
abbrev Byte := BitVec 8

end Sys2Proof
end

