-- ==== Sys2Proof/Config.lean ====
section
/-! DEFINITION. What one instance of the framer fixes (its parameters, 00_scope.md R4), the four address spaces, and
the free values of memory that nothing has written. -/

namespace Sys2Proof

/-- The implementation parameters of 00_scope.md R4. -/
structure Params where
  /-- `STX`, the frame-start delimiter. -/
  stx : Byte
  /-- `ETX`, the frame-end delimiter. -/
  etx : Byte
  /-- `ESC`, the escape byte. -/
  esc : Byte
  /-- `FLAG_ACK`, the mask of the should-acknowledge bit; no command interprets it (10_state.md R12). -/
  flagAck : Byte
  /-- `FLAG_IGNCHK`, the mask of the ignore-checksum bit (42_encode.md R114). -/
  flagIgnchk : Byte
  /-- `TYPE_NONE`, the type that `EMPTY_FRAME` and reset store. -/
  typeNone : Byte
  /-- `AW`, the address width of each of the four memories (log 3). -/
  aw : Nat
  /-- `CW`, the width of the capacity, length and bytes-written registers (log 3). -/
  cw : Nat
  deriving DecidableEq, Repr

/-- The "default" column of 00_scope.md R4 (log 2). -/
def Params.default : Params :=
  { stx := 0x02#8, etx := 0x03#8, esc := 0x25#8, flagAck := 0x01#8, flagIgnchk := 0x02#8, typeNone := 0x00#8
    aw := 16, cw := 16 }

/-- The four address spaces of 10_state.md R25. -/
inductive MemSpace where
  | pay
  | scr
  | dst
  | src
  deriving DecidableEq, Repr

/-- A free value: the byte that a memory holds at an address nothing has written since reset. "every byte of `PAY`,
`SCR`, `DST`, `SRC`" is "unspecified" (10_state.md R29, R181; 93_implementation_defined.md U7; log 5). -/
opaque Config.powerOnByte : MemSpace → Nat → Byte

end Sys2Proof
end

