-- ==== Sys2Proof/Syntax.lean ====
section
/-! DEFINITION. The commands (one constructor per row of spec/opcode_table.json), the register names, the error names
and the host's actions. -/

namespace Sys2Proof

/-- The ten commands of 30_encoding.md R61. A command has no operand field (R60): its operands are fixed registers. -/
inductive Instr where
  | isEsc
  | isStx
  | isEtx
  | isRsv
  | stuff
  | unstuff
  | encode
  | decode
  | emptyFrame
  | attachPayload
  deriving DecidableEq, Repr

/-- The 24 registers, in the order of their numbers (10_state.md R23). -/
inductive Reg where
  | cmd
  | status
  | byteIn
  | pred
  | stOut0
  | stOut1
  | stN
  | unW0
  | unW1
  | unByte
  | unConsumed
  | frType
  | frFlags
  | frChk
  | frPlen
  | frPview
  | argView
  | argN
  | dstCtl
  | dstCap
  | written
  | srcCtl
  | srcLen
  | scrCap
  deriving DecidableEq, Repr

/-- The six errors a command can raise (60_exceptions.md R160); success, `OK`, is no error. -/
inductive ErrorKind where
  | invalidHandle
  | bufferTooSmall
  | startMissing
  | endMissing
  | lengthOverflow
  | illegalCommand
  deriving DecidableEq, Repr

/-- One action of the host (70_reset_and_hazards.md R191). A register is named by its number, any number (10_state.md
R23); a memory byte by its space and its address (20_memory.md R49). A command is issued by writing its code to
register 0, `CMD`. Values and addresses are numbers: a register takes the low bits of a value that it has (log 6), a
memory the low `AW` bits of an address (log 12). No action resets the block: reset begins a run (log 13). -/
inductive HostAction where
  | writeReg (no v : Nat)
  | readReg (no : Nat)
  | writeMem (sp : MemSpace) (a : Nat) (v : Byte)
  | readMem (sp : MemSpace) (a : Nat)
  deriving DecidableEq, Repr

end Sys2Proof
end

