-- ==== Sys2Proof/WellFormed.lean ====
section
/-! DEFINITION. What a well-formed instance and a well-formed command are. The checks are on the parameters (00_scope.md
R4, 40_classifier.md R94): a command has no operand that could be ill-formed (30_encoding.md R60). -/

namespace Sys2Proof

/-- The masks with "exactly one bit set" (00_scope.md R4). -/
def oneBitMasks : List Byte := [0x01#8, 0x02#8, 0x04#8, 0x08#8, 0x10#8, 0x20#8, 0x40#8, 0x80#8]

/-- "`STX`, `ETX`, `ESC` pairwise different" (00_scope.md R4; 40_classifier.md R94). -/
abbrev Params.Disjoint (p : Params) : Prop := p.stx ≠ p.etx ∧ p.stx ≠ p.esc ∧ p.etx ≠ p.esc

/-- "exactly one bit set; differs from" the other mask, for both flag masks (00_scope.md R4). -/
abbrev Params.MasksOk (p : Params) : Prop :=
  p.flagAck ∈ oneBitMasks ∧ p.flagIgnchk ∈ oneBitMasks ∧ p.flagAck ≠ p.flagIgnchk

/-- "`AW >= 9`, so the longest frame (265 bytes) fits" and "`CW = AW`" (00_scope.md R4). -/
abbrev Params.WidthsOk (p : Params) : Prop := 9 ≤ p.aw ∧ p.cw = p.aw

/-- The parameter constraints of 00_scope.md R4. -/
abbrev Params.Valid (p : Params) : Prop := p.Disjoint ∧ p.MasksOk ∧ p.WidthsOk

/-- Every command is well-formed: it has no field to check (30_encoding.md R60, R64). -/
def Instr.wellFormed (i : Instr) : Bool :=
  match i with
  | .isEsc => true
  | .isStx => true
  | .isEtx => true
  | .isRsv => true
  | .stuff => true
  | .unstuff => true
  | .encode => true
  | .decode => true
  | .emptyFrame => true
  | .attachPayload => true

end Sys2Proof
end

