-- ==== Sys2Proof/Decode.lean ====
section
/-! DEFINITION. The command decoder, total on every byte and rejecting by name, and the encoder, both written from
the code table of 30_encoding.md R61. -/

namespace Sys2Proof

/-- Why a decoder refuses: the byte is one of the 246 illegal codes (30_encoding.md R62). -/
inductive DecodeError where
  | illegalCode (code : Byte)
  deriving DecidableEq, Repr

/-- "A decoder matches `x[CMD]`'s written value against the ten codes of rule R61 by equality; any other value is rule
R62" (30_encoding.md R63). -/
def decode (c : Byte) : Except DecodeError Instr :=
  if c = 0x01#8 then .ok .isEsc
  else if c = 0x02#8 then .ok .isStx
  else if c = 0x03#8 then .ok .isEtx
  else if c = 0x04#8 then .ok .isRsv
  else if c = 0x10#8 then .ok .stuff
  else if c = 0x11#8 then .ok .unstuff
  else if c = 0x20#8 then .ok .encode
  else if c = 0x21#8 then .ok .decode
  else if c = 0x30#8 then .ok .emptyFrame
  else if c = 0x31#8 then .ok .attachPayload
  else .error (.illegalCode c)

/-- The code of a command (30_encoding.md R61). -/
def encode (i : Instr) : Byte :=
  match i with
  | .isEsc => 0x01#8
  | .isStx => 0x02#8
  | .isEtx => 0x03#8
  | .isRsv => 0x04#8
  | .stuff => 0x10#8
  | .unstuff => 0x11#8
  | .encode => 0x20#8
  | .decode => 0x21#8
  | .emptyFrame => 0x30#8
  | .attachPayload => 0x31#8

/-- "The *encoding* of a script is the sequence of its `CMD` lines' codes" (30_encoding.md R82). -/
def encodeScript (is : List Instr) : List Byte := is.map encode

/-- The commands of a sequence of codes; the first illegal code is refused by name. -/
def decodeScript : List Byte → Except DecodeError (List Instr)
  | [] => .ok []
  | c :: cs =>
    match decode c with
    | .error e => .error e
    | .ok i =>
      match decodeScript cs with
      | .error e => .error e
      | .ok is => .ok (i :: is)

/-- The code in an instruction word of the opcode table: its low `nbits` bits, as the 8-bit value written to `CMD`
(30_encoding.md R60; log 10). -/
def tableCode (nbits w : Nat) : Byte := BitVec.ofNat 8 (w % 2 ^ nbits)

/-- What the decoder reads from an instruction word numbered as spec/opcode_table.json numbers it (log 10). -/
def decodeTableWord (nbits w : Nat) : Option Instr :=
  match decode (tableCode nbits w) with
  | .ok i => some i
  | .error _ => none

end Sys2Proof
end

