-- ==== Sys2Proof/Machine/State.lean ====
section
/-! DEFINITION. The state of the framer as plain data (10_state.md R10), the reasons a step can stop, and the state
after reset (10_state.md R29). -/

namespace Sys2Proof.Machine

/-- A memory: the bytes that have been written since reset, by address, addresses strictly rising (`Memory.wf`). An
address that is not listed holds no written value (log 5). -/
abbrev Memory := List Host.Cell

/-- The 23 registers that store something (10_state.md R23; `CMD` stores nothing, R21) and the four memories (R25);
then the model's own two fields. A register of which only some bits are used has the width of those bits (log 7). The
four `CW`-bit registers count bytes, and hold a number below `2^CW` (log 3; `State.CountsOk`). -/
structure State where
  /-- The instance's parameters, written by no action (00_scope.md R4; the model's own field, log 1). -/
  params : Params
  /-- `STATUS`, the result code of the most recent command (R22). -/
  status : Byte
  /-- `BYTE_IN` (R17). -/
  byteIn : Byte
  /-- `PRED`, bit 0 (R18). -/
  pred : BitVec 1
  /-- `ST_OUT0` (R18). -/
  stOut0 : Byte
  /-- `ST_OUT1` (R18). -/
  stOut1 : Byte
  /-- `ST_N`, bits 1:0 (R18). -/
  stN : BitVec 2
  /-- `UN_W0` (R17). -/
  unW0 : Byte
  /-- `UN_W1` (R17). -/
  unW1 : Byte
  /-- `UN_BYTE` (R18). -/
  unByte : Byte
  /-- `UN_CONSUMED`, bits 1:0 (R18). -/
  unConsumed : BitVec 2
  /-- `FR_TYPE` (R11). -/
  frType : Byte
  /-- `FR_FLAGS` (R12). -/
  frFlags : Byte
  /-- `FR_CHK` (R13). -/
  frChk : Byte
  /-- `FR_PLEN` (R14). -/
  frPlen : Byte
  /-- `FR_PVIEW`: `VALID` bit 0, `SPACE` bit 1 (R15). -/
  frPview : BitVec 2
  /-- `ARG_VIEW`: `VALID` bit 0, `SPACE` bit 1 (R17). -/
  argView : BitVec 2
  /-- `ARG_N` (R17). -/
  argN : Byte
  /-- `DST_CTL`: `PRESENT` bit 0 (R19). -/
  dstCtl : BitVec 1
  /-- `DST_CAP`, `CW` bits (R19). -/
  dstCap : Nat
  /-- `WRITTEN`, `CW` bits (R18). -/
  written : Nat
  /-- `SRC_CTL`: `PRESENT` bit 0 (R20). -/
  srcCtl : BitVec 1
  /-- `SRC_LEN`, `CW` bits (R20). -/
  srcLen : Nat
  /-- `SCR_CAP`, `CW` bits (R20). -/
  scrCap : Nat
  /-- `PAY`, the payload memory (R25). -/
  pay : Memory
  /-- `SCR`, the scratch memory (R25). -/
  scr : Memory
  /-- `DST`, the destination memory (R25). -/
  dst : Memory
  /-- `SRC`, the source memory (R25). -/
  src : Memory
  /-- The host actions still to come, the next one first (00_scope.md R6; the model's own field, log 4). -/
  pending : List HostAction
  deriving DecidableEq, Repr

/-- No step of the framer faults: "no sequence of host actions is forbidden, none faults, and none leaves the block
stuck" (70_reset_and_hazards.md R191). So there is no fault and nobody raises one: safe (log 8). -/
inductive Fault where
  deriving DecidableEq, Repr

/-- Why a command has no meaning. -/
inductive Refusal where
  /-- Raised by an arm of `exec` whose command is not modelled: safe. No arm raises it, every command has its
  meaning. -/
  | notModelled (mnemonic : String)
  deriving DecidableEq, Repr

/-- The state after reset of an instance with parameters `p` whose memories hold `pay`, `scr`, `dst`, `src` and whose
host will act as `pending` says. Reset gives every register its value and leaves the memories unspecified
(10_state.md R29; 70_reset_and_hazards.md R180, R181: their content is "a parameter of the initial state"). -/
def State.resetWith (p : Params) (pay scr dst src : Memory) (pending : List HostAction) : State :=
  { params := p
    status := 0x00#8
    byteIn := 0x00#8
    pred := 0#1
    stOut0 := 0x00#8
    stOut1 := 0x00#8
    stN := 0#2
    unW0 := 0x00#8
    unW1 := 0x00#8
    unByte := 0x00#8
    unConsumed := 0#2
    frType := p.typeNone
    frFlags := 0x00#8
    frChk := 0x00#8
    frPlen := 0x00#8
    frPview := 0#2
    argView := 0#2
    argN := 0x00#8
    dstCtl := 0#1
    dstCap := 0
    written := 0
    srcCtl := 0#1
    srcLen := 0
    scrCap := 0
    pay := pay
    scr := scr
    dst := dst
    src := src
    pending := pending }

/-- The machine right after reset: the spec's default parameters (log 2), no byte of memory written (log 5), and no
host action asked for yet (log 4). -/
def State.reset : State := State.resetWith Params.default [] [] [] [] []

end Sys2Proof.Machine
end

