-- ==== Sys2Proof/Machine/Flags.lean ====
section
/-! DEFINITION. Status codes, the answer bit of a predicate, and the flag bits of `FR_FLAGS`. -/

namespace Sys2Proof.Machine

/-- `OK`, the status code of success (60_exceptions.md R160). -/
def okCode : Byte := 0x00#8

/-- The status code of an error (60_exceptions.md R160). -/
def errorCode (e : ErrorKind) : Byte :=
  match e with
  | .invalidHandle => 0x01#8
  | .bufferTooSmall => 0x02#8
  | .startMissing => 0x03#8
  | .endMissing => 0x04#8
  | .lengthOverflow => 0x05#8
  | .illegalCommand => 0x06#8

/-- `PRED` holds 1 for true and 0 for false (10_state.md R18). -/
def predBit (b : Bool) : BitVec 1 := if b then 1#1 else 0#1

/-- The ignore-checksum flag is set: `(x[FR_FLAGS] & FLAG_IGNCHK) != 0` (42_encode.md R114). -/
def ignoreChecksum (p : Params) (flags : Byte) : Bool := flags &&& p.flagIgnchk != 0x00#8

/-- The should-acknowledge flag is set. "informational to the application, not interpreted by the codec" (10_state.md
R12): no command uses it. -/
def shouldAcknowledge (p : Params) (flags : Byte) : Bool := flags &&& p.flagAck != 0x00#8

/-- The checksum byte that `ENCODE` transmits: 0 when the ignore-checksum flag is set, else the Frame's (42_encode.md
R114; 30_encoding.md R77). -/
def transmittedChecksum (p : Params) (flags chk : Byte) : Byte := if ignoreChecksum p flags then 0x00#8 else chk

end Sys2Proof.Machine
end

