-- ==== Sys2Proof/Machine/Ops.lean ====
section
/-! DEFINITION. The shared operations: memory bytes, register access by number, raising an error, succeeding, and
taking the host's next action. -/

namespace Sys2Proof.Machine

/-! ### One memory -/

/-- The byte that has been written at an address; `none` where nothing has written since reset (log 5). -/
def Memory.lookup (m : Memory) (a : Nat) : Option Byte :=
  match m with
  | [] => none
  | (k, v) :: rest => if k = a then some v else Memory.lookup rest a

/-- Store a byte, keeping the addresses strictly rising. -/
def Memory.write (m : Memory) (a : Nat) (v : Byte) : Memory :=
  match m with
  | [] => [(a, v)]
  | (k, w) :: rest =>
    if a < k then (a, v) :: (k, w) :: rest
    else if a = k then (a, v) :: rest
    else (k, w) :: Memory.write rest a v

/-- Store bytes at addresses `a`, `a + 1`, ... -/
def Memory.writeBytes (m : Memory) (a : Nat) (bs : List Byte) : Memory :=
  match bs with
  | [] => m
  | b :: rest => Memory.writeBytes (Memory.write m a b) (a + 1) rest

/-- Addresses strictly rise, from `lo` up, and each is an address of a space of `2^aw` bytes (10_state.md R25). -/
def Memory.wfFrom (aw lo : Nat) (m : Memory) : Bool :=
  match m with
  | [] => true
  | (k, _) :: rest => decide (lo ≤ k) && decide (k < 2 ^ aw) && Memory.wfFrom aw (k + 1) rest

/-- The canonical form: addresses strictly rising and inside the space. An unlisted address holds no written value,
so no entry can equal what an unlisted address holds (log 5). -/
def Memory.wf (aw : Nat) (m : Memory) : Bool := Memory.wfFrom aw 0 m

/-! ### The four memories of a state (10_state.md R25) -/

/-- The memory of a space. -/
def State.mem (s : State) (sp : MemSpace) : Memory :=
  match sp with
  | .pay => s.pay
  | .scr => s.scr
  | .dst => s.dst
  | .src => s.src

/-- Replace the memory of a space. -/
def State.setMem (s : State) (sp : MemSpace) (m : Memory) : State :=
  match sp with
  | .pay => { s with pay := m }
  | .scr => { s with scr := m }
  | .dst => { s with dst := m }
  | .src => { s with src := m }

/-- `MemRead(S, a, 1)`: the byte at an address; a byte nothing has written is a free value (10_state.md R29; log 5). -/
def State.memRead (s : State) (sp : MemSpace) (a : Nat) : Byte :=
  ((s.mem sp).lookup a).getD (Config.powerOnByte sp a)

/-- `MemWrite(S, a, 1, v)`. -/
def State.memWrite (s : State) (sp : MemSpace) (a : Nat) (v : Byte) : State :=
  s.setMem sp ((s.mem sp).write a v)

/-! ### Ending a command -/

/-- Write `STATUS` (10_state.md R22). -/
def State.setStatus (s : State) (c : Byte) : State := { s with status := c }

/-- `raise E`: taking an exception. "`x[STATUS] <- code(E)`, no other register and no memory byte changes, and the
command ends" (00_scope.md section 6; 60_exceptions.md R163). Nothing is saved, no mode changes, and there is no
handler and no return (R164). -/
def State.raise (s : State) (e : ErrorKind) : State := s.setStatus (errorCode e)

/-- The last act of a command that succeeds: `x[STATUS] <- OK` (10_state.md R22). -/
def State.succeed (s : State) : State := s.setStatus okCode

/-- A test of a command: pass, or report the error (60_exceptions.md R165: the first failing test is reported). -/
def require (b : Bool) (e : ErrorKind) : Except ErrorKind Unit := if b then .ok () else .error e

/-- Writing an illegal code "executes `raise ILLEGAL_COMMAND`" (30_encoding.md R62). -/
def State.illegalCommand (s : State) : State := s.raise .illegalCommand

/-! ### The result registers a command writes, `STATUS` apart -/

/-- The classifier's answer (40_classifier.md R90 to R93). -/
def State.setPred (s : State) (b : BitVec 1) : State := { s with pred := b }

/-- The stuffer's answer (41_stuffer.md R102). -/
def State.setStuffed (s : State) (b0 b1 : Byte) (n : BitVec 2) : State := { s with stOut0 := b0, stOut1 := b1, stN := n }

/-- The unstuffer's answer (41_stuffer.md R103). -/
def State.setUnstuffed (s : State) (v : Byte) (k : BitVec 2) : State := { s with unByte := v, unConsumed := k }

/-- `FR_TYPE`, `FR_FLAGS`, `FR_CHK` (10_state.md R11 to R13). -/
def State.setHeader (s : State) (t f c : Byte) : State := { s with frType := t, frFlags := f, frChk := c }

/-- `FR_PLEN`, `FR_PVIEW`: the Frame's logical length and payload view (10_state.md R14, R15). -/
def State.setPayload (s : State) (n : Byte) (view : BitVec 2) : State := { s with frPlen := n, frPview := view }

/-- `WRITTEN` (42_encode.md R117). -/
def State.setWritten (s : State) (n : Nat) : State := { s with written := n }

/-! ### Host access to registers (10_state.md R23) -/

/-- The number of a register (10_state.md R23). -/
def regNo (r : Reg) : Nat :=
  match r with
  | .cmd => 0
  | .status => 1
  | .byteIn => 2
  | .pred => 3
  | .stOut0 => 4
  | .stOut1 => 5
  | .stN => 6
  | .unW0 => 7
  | .unW1 => 8
  | .unByte => 9
  | .unConsumed => 10
  | .frType => 11
  | .frFlags => 12
  | .frChk => 13
  | .frPlen => 14
  | .frPview => 15
  | .argView => 16
  | .argN => 17
  | .dstCtl => 18
  | .dstCap => 19
  | .written => 20
  | .srcCtl => 21
  | .srcLen => 22
  | .scrCap => 23

/-- The register of a number; there is none from 24 up (10_state.md R23). -/
def regOfNo (n : Nat) : Option Reg :=
  match n with
  | 0 => some .cmd
  | 1 => some .status
  | 2 => some .byteIn
  | 3 => some .pred
  | 4 => some .stOut0
  | 5 => some .stOut1
  | 6 => some .stN
  | 7 => some .unW0
  | 8 => some .unW1
  | 9 => some .unByte
  | 10 => some .unConsumed
  | 11 => some .frType
  | 12 => some .frFlags
  | 13 => some .frChk
  | 14 => some .frPlen
  | 15 => some .frPview
  | 16 => some .argView
  | 17 => some .argN
  | 18 => some .dstCtl
  | 19 => some .dstCap
  | 20 => some .written
  | 21 => some .srcCtl
  | 22 => some .srcLen
  | 23 => some .scrCap
  | _ => none

/-- `RD reg`: what the host reads from a register, reserved bits and the bits above an 8-bit register being 0; `CMD`
reads 0 (10_state.md R21, R23; log 6). -/
def State.readReg (s : State) (r : Reg) : Nat :=
  match r with
  | .cmd => 0
  | .status => s.status.toNat
  | .byteIn => s.byteIn.toNat
  | .pred => s.pred.toNat
  | .stOut0 => s.stOut0.toNat
  | .stOut1 => s.stOut1.toNat
  | .stN => s.stN.toNat
  | .unW0 => s.unW0.toNat
  | .unW1 => s.unW1.toNat
  | .unByte => s.unByte.toNat
  | .unConsumed => s.unConsumed.toNat
  | .frType => s.frType.toNat
  | .frFlags => s.frFlags.toNat
  | .frChk => s.frChk.toNat
  | .frPlen => s.frPlen.toNat
  | .frPview => s.frPview.toNat
  | .argView => s.argView.toNat
  | .argN => s.argN.toNat
  | .dstCtl => s.dstCtl.toNat
  | .dstCap => s.dstCap
  | .written => s.written
  | .srcCtl => s.srcCtl.toNat
  | .srcLen => s.srcLen
  | .scrCap => s.scrCap

/-- `RD` by number: a number of 24 or above reads 0 (10_state.md R23). -/
def State.readRegNo (s : State) (no : Nat) : Nat :=
  match regOfNo no with
  | some r => s.readReg r
  | none => 0

/-- What a `CW`-bit register takes of a written value: the low `CW` bits (00_scope.md R4; 10_state.md R23; log 6). -/
def State.countOf (s : State) (v : Nat) : Nat := v % 2 ^ s.params.cw

/-- `WR reg, v` for what the register stores: a read-write register takes the bits it uses, a read-only register
ignores the write, and `CMD` stores nothing (10_state.md R21, R23; log 6, log 7). -/
def State.writeReg (s : State) (r : Reg) (v : Nat) : State :=
  match r with
  | .cmd => s
  | .status => s
  | .byteIn => { s with byteIn := BitVec.ofNat 8 v }
  | .pred => s
  | .stOut0 => s
  | .stOut1 => s
  | .stN => s
  | .unW0 => { s with unW0 := BitVec.ofNat 8 v }
  | .unW1 => { s with unW1 := BitVec.ofNat 8 v }
  | .unByte => s
  | .unConsumed => s
  | .frType => { s with frType := BitVec.ofNat 8 v }
  | .frFlags => { s with frFlags := BitVec.ofNat 8 v }
  | .frChk => { s with frChk := BitVec.ofNat 8 v }
  | .frPlen => { s with frPlen := BitVec.ofNat 8 v }
  | .frPview => { s with frPview := BitVec.ofNat 2 v }
  | .argView => { s with argView := BitVec.ofNat 2 v }
  | .argN => { s with argN := BitVec.ofNat 8 v }
  | .dstCtl => { s with dstCtl := BitVec.ofNat 1 v }
  | .dstCap => { s with dstCap := s.countOf v }
  | .written => s
  | .srcCtl => { s with srcCtl := BitVec.ofNat 1 v }
  | .srcLen => { s with srcLen := s.countOf v }
  | .scrCap => { s with scrCap := s.countOf v }

/-- `WR` by number: a number of 24 or above writes nothing (10_state.md R23). -/
def State.writeRegNo (s : State) (no v : Nat) : State :=
  match regOfNo no with
  | some r => s.writeReg r v
  | none => s

/-- The byte that an address of the host names: the low `AW` bits of the number, which is the number itself for the
addresses "0 to `2^AW - 1`" of a space (20_memory.md R43, R49; log 12). -/
def State.hostAddr (s : State) (a : Nat) : Nat := a % 2 ^ s.params.aw

/-! ### The host's next action (70_reset_and_hazards.md R191; log 4) -/

/-- Replace the list of actions still to come. -/
def State.setPending (s : State) (as : List HostAction) : State := { s with pending := as }

/-- The next action, and the state in which it takes effect: the same state with that action taken off the list. -/
def State.nextAction (s : State) : Option (HostAction × State) :=
  match s.pending with
  | [] => none
  | a :: rest => some (a, s.setPending rest)

/-- The code an action writes to `CMD`, if it is a write of `CMD`: the low 8 bits of the value (10_state.md R21;
log 6). -/
def commandCode (a : HostAction) : Option Byte :=
  match a with
  | .writeReg no v => if no = 0 then some (BitVec.ofNat 8 v) else none
  | .readReg _ => none
  | .writeMem _ _ _ => none
  | .readMem _ _ => none

/-- The effect of an action on what the state stores: a write of a register or a memory byte writes it, a read has no
effect (10_state.md R23; 20_memory.md R49; 70_reset_and_hazards.md R191). -/
def State.hostEffect (s : State) (a : HostAction) : State :=
  match a with
  | .writeReg no v => s.writeRegNo no v
  | .readReg _ => s
  | .writeMem sp ad v => s.memWrite sp (s.hostAddr ad) v
  | .readMem _ _ => s

/-- What a read delivers to the host; a write delivers nothing (70_reset_and_hazards.md R191: "the host learns results
only by reading"). -/
def State.hostReads (s : State) (a : HostAction) : Option Nat :=
  match a with
  | .readReg no => some (s.readRegNo no)
  | .readMem sp ad => some (s.memRead sp (s.hostAddr ad)).toNat
  | .writeReg _ _ => none
  | .writeMem _ _ _ => none

/-- The action that issues a command: a write of its code to `CMD`, register 0 (10_state.md R21). -/
def issue (c : Byte) : HostAction := .writeReg 0 c.toNat

end Sys2Proof.Machine
end

