-- ==== Sys2Proof/Machine/Wire.lean ====
section
/-! DEFINITION. The pure functions of the codec: the four predicates, stuffing and unstuffing, and the wire frame. -/

namespace Sys2Proof.Machine

/-- `is_esc(b)` (40_classifier.md R90). -/
def isEsc (p : Params) (b : Byte) : Bool := b == p.esc

/-- `is_stx(b)` (40_classifier.md R91). -/
def isStx (p : Params) (b : Byte) : Bool := b == p.stx

/-- `is_etx(b)` (40_classifier.md R92). -/
def isEtx (p : Params) (b : Byte) : Bool := b == p.etx

/-- `is_rsv(b)`: "true iff any of the three hold" (40_classifier.md R93). -/
def isRsv (p : Params) (b : Byte) : Bool := isEsc p b || isStx p b || isEtx p b

/-- `stuff(b)` (41_stuffer.md R100): a reserved byte is sent unmodified after `ESC`. -/
def stuff (p : Params) (b : Byte) : List Byte := if isRsv p b then [p.esc, b] else [b]

/-- `stufflen(b)` (41_stuffer.md R100). -/
def stuffLen (p : Params) (b : Byte) : Nat := if isRsv p b then 2 else 1

/-- `unstuff(w0, w1)`: the logical byte and the number of wire bytes consumed (41_stuffer.md R101). -/
def unstuff (p : Params) (w0 w1 : Byte) : Byte × Nat := if isEsc p w0 then (w1, 2) else (w0, 1)

/-- `concat(i < n, stuff(p[i]))`: the payload region of a frame (30_encoding.md R76). -/
def stuffAll (p : Params) (bs : List Byte) : List Byte := bs.flatMap (stuff p)

/-- `sum(i < n, stufflen(p[i]))`: the value of the length field (42_encode.md R112). -/
def wireLen (p : Params) (bs : List Byte) : Nat := (bs.map (stuffLen p)).sum

/-- The wire frame (30_encoding.md R70), with the length field always `ESC, LEN` (R74). -/
def wireFrame (p : Params) (type flags chk : Byte) (payload : List Byte) : List Byte :=
  [p.stx] ++ stuff p type ++ stuff p flags ++ [p.esc, BitVec.ofNat 8 (wireLen p payload)] ++ stuffAll p payload
    ++ stuff p (transmittedChecksum p flags chk) ++ [p.etx]

end Sys2Proof.Machine
end

