-- ==== Sys2Proof/Machine/Classifier.lean ====
section
/-! DEFINITION. The Byte Classifier commands (40_classifier.md R90 to R93). -/

namespace Sys2Proof.Machine

/-- `x[PRED] <- if f(x[BYTE_IN]) then 1 else 0; x[STATUS] <- OK`, for a predicate `f`. -/
def State.classify (s : State) (f : Params → Byte → Bool) : State :=
  (s.setPred (predBit (f s.params s.byteIn))).succeed

/-- `IS_ESC` (R90). -/
def execIsEsc (s : State) : Host.Outcome State Fault Refusal := .next (s.classify isEsc)

/-- `IS_STX` (R91). -/
def execIsStx (s : State) : Host.Outcome State Fault Refusal := .next (s.classify isStx)

/-- `IS_ETX` (R92). -/
def execIsEtx (s : State) : Host.Outcome State Fault Refusal := .next (s.classify isEtx)

/-- `IS_RSV` (R93). -/
def execIsRsv (s : State) : Host.Outcome State Fault Refusal := .next (s.classify isRsv)

end Sys2Proof.Machine
end

