-- ==== Sys2Proof/Machine/Operands.lean ====
section
/-! DEFINITION. The operand forms: fields of the view and control registers, the logical payload a view shows, and the
bounded read of the source buffer. -/

namespace Sys2Proof.Machine

/-- `VALID`, bit 0 of a payload view (10_state.md R15, R17). -/
def viewValid (view : BitVec 2) : Bool := view.getLsbD 0

/-- `SPACE`, bit 1 of a payload view: 0 is `PAY`, 1 is `SCR` (10_state.md R15, R25). -/
def viewSpace (view : BitVec 2) : MemSpace := if view.getLsbD 1 then .scr else .pay

/-- A bound view into the space that `view` selects: `(SPACE << 1) | 1` (44_frame_helpers.md R151). -/
def boundView (view : BitVec 2) : BitVec 2 := (view &&& 2#2) ||| 1#2

/-- The view bound to the scratch buffer: `VALID` = 1, `SPACE` = 1 (43_decode.md R139). -/
def scratchView : BitVec 2 := 3#2

/-- The null view, "no payload": `VALID` = 0, `SPACE` = 0 (10_state.md R15). -/
def nullView : BitVec 2 := 0#2

/-- `PRESENT`, bit 0 of a control register (10_state.md R19, R20). -/
def present (ctl : BitVec 1) : Bool := ctl.getLsbD 0

/-- The logical payload of the Frame: "logical byte `i` is `MemRead(space, i, 1)` for `0 <= i < x[FR_PLEN]`"
(10_state.md R15). -/
def State.payload (s : State) : List Byte :=
  (List.range s.frPlen.toNat).map (s.memRead (viewSpace s.frPview))

/-- `rd(k)`: the source byte at `k`, or no byte at or beyond `SRC_LEN` (43_decode.md R131). -/
def State.srcByte (s : State) (k : Nat) : Option Byte :=
  if k < s.srcLen then some (s.memRead .src k) else none

end Sys2Proof.Machine
end

