-- ==== Sys2Proof/Machine/FrameDecode.lean ====
section
/-! DEFINITION. The Frame Codec decode command (43_decode.md R130). `rd` is the bounded read of the source buffer. -/

namespace Sys2Proof.Machine

/-- `take()` at cursor `rp`: one wire unit's logical byte and the wire bytes it uses; `none` where the readable bytes
end inside the unit (43_decode.md R131, R132; 41_stuffer.md R101). -/
def unitAt (p : Params) (rd : Nat → Option Byte) (rp : Nat) : Option (Byte × Nat) :=
  match rd rp with
  | none => none
  | some w0 => if isEsc p w0 then (rd (rp + 1)).map (fun w1 => (w1, 2)) else some (w0, 1)

/-- `take()` for a field: its value and the cursor after it, or `END_MISSING` (43_decode.md R131, R133, R138). -/
def takeField (p : Params) (rd : Nat → Option Byte) (rp : Nat) : Except ErrorKind (Byte × Nat) :=
  match unitAt p rd rp with
  | none => .error .endMissing
  | some (v, k) => .ok (v, rp + k)

/-- Put a logical byte before the bytes collected after it. -/
def collect (v : Byte) (r : Except ErrorKind (List Byte × Nat)) : Except ErrorKind (List Byte × Nat) :=
  match r with
  | .error e => .error e
  | .ok (q, rp) => .ok (v :: q, rp)

/-- The payload loop: unstuff until exactly `budget` wire bytes are consumed (43_decode.md R135); the logical bytes
and the cursor after them. A 2-byte unit at the last byte of the budget straddles it: `END_MISSING` (R136).
`budget` is the manual's `cnt - consumed` (log 11). -/
def takePayload (p : Params) (rd : Nat → Option Byte) (budget rp : Nat) : Except ErrorKind (List Byte × Nat) :=
  match budget with
  | 0 => .ok ([], rp)
  | left + 1 =>
    match unitAt p rd rp with
    | none => .error .endMissing
    | some (v, k) =>
      if k = 1 then collect v (takePayload p rd left (rp + 1))
      else
        match left with
        | 0 => .error .endMissing
        | left' + 1 => collect v (takePayload p rd left' (rp + 2))

/-- What a decoded frame carries: the header and checksum bytes, the wire-byte count of the payload region, and the
logical payload. -/
structure DecodedFrame where
  type : Byte
  flags : Byte
  chk : Byte
  cnt : Byte
  payload : List Byte
  deriving DecidableEq, Repr

/-- Steps 2 to 7 of `DECODE`, the tests in their order (43_decode.md R141), on a source buffer read by `rd`. -/
def parseFrame (p : Params) (rd : Nat → Option Byte) (scrCap : Nat) : Except ErrorKind DecodedFrame := do
  require (rd 0 == some p.stx) .startMissing
  let (t, rp) ← takeField p rd 1
  let (f, rp) ← takeField p rd rp
  let (cnt, rp) ← takeField p rd rp
  let (q, rp) ← takePayload p rd cnt.toNat rp
  require (decide (q.length ≤ scrCap)) .bufferTooSmall
  let (c, rp) ← takeField p rd rp
  require (rd rp == some p.etx) .endMissing
  return { type := t, flags := f, chk := c, cnt := cnt, payload := q }

/-- The frame in the source buffer, or the first failing test (43_decode.md R134, R141). -/
def State.frameInSource (s : State) : Except ErrorKind DecodedFrame := do
  require (present s.srcCtl) .invalidHandle
  parseFrame s.params s.srcByte s.scrCap

/-- The commit: "the only writes of the command" (43_decode.md R130, R139). -/
def State.commitFrame (s : State) (d : DecodedFrame) : State :=
  let h := s.setHeader d.type d.flags d.chk
  if d.cnt ≠ 0x00#8 then
    ((h.setMem .scr ((h.mem .scr).writeBytes 0 d.payload)).setPayload (BitVec.ofNat 8 d.payload.length) scratchView).succeed
  else (h.setPayload 0x00#8 nullView).succeed

/-- `DECODE` (R130). -/
def execDecode (s : State) : Host.Outcome State Fault Refusal :=
  match s.frameInSource with
  | .error e => .next (s.raise e)
  | .ok d => .next (s.commitFrame d)

end Sys2Proof.Machine
end

