-- ==== Sys2Proof/Machine/FrameEncode.lean ====
section
/-! DEFINITION. The Frame Codec encode command (42_encode.md R110). -/

namespace Sys2Proof.Machine

/-- Steps 1 to 4 of `ENCODE`: the tests in their order (42_encode.md R118), and the frame to write. -/
def State.frameToEmit (s : State) : Except ErrorKind (List Byte) := do
  require (present s.dstCtl) .invalidHandle
  require (s.frPlen == 0x00#8 || viewValid s.frPview) .invalidHandle
  require (decide (wireLen s.params s.payload ≤ 255)) .lengthOverflow
  let frame := wireFrame s.params s.frType s.frFlags s.frChk s.payload
  require (decide (frame.length ≤ s.dstCap)) .bufferTooSmall
  return frame

/-- Step 5 of `ENCODE`: the frame to `DST` from address 0 upward, `WRITTEN`, `STATUS` (42_encode.md R115, R117). -/
def State.emitFrame (s : State) (frame : List Byte) : State :=
  ((s.setMem .dst ((s.mem .dst).writeBytes 0 frame)).setWritten frame.length).succeed

/-- `ENCODE` (R110). -/
def execEncode (s : State) : Host.Outcome State Fault Refusal :=
  match s.frameToEmit with
  | .error e => .next (s.raise e)
  | .ok frame => .next (s.emitFrame frame)

end Sys2Proof.Machine
end

