-- ==== Sys2Proof/Machine/FrameHelpers.lean ====
section
/-! DEFINITION. The frame construction helper commands (44_frame_helpers.md R150, R151). -/

namespace Sys2Proof.Machine

/-- `EMPTY_FRAME` (R150). -/
def execEmptyFrame (s : State) : Host.Outcome State Fault Refusal :=
  .next ((s.setHeader s.params.typeNone 0x00#8 0x00#8).setPayload 0x00#8 nullView).succeed

/-- `ATTACH_PAYLOAD` (R151): the null view is tested first; a zero length is `BUFFER_TOO_SMALL`. -/
def execAttachPayload (s : State) : Host.Outcome State Fault Refusal :=
  if viewValid s.argView = false then .next (s.raise .invalidHandle)
  else if s.argN = 0x00#8 then .next (s.raise .bufferTooSmall)
  else .next (s.setPayload s.argN (boundView s.argView)).succeed

end Sys2Proof.Machine
end

