-- ==== Sys2Proof/Machine/Stuffer.lean ====
section
/-! DEFINITION. The Byte Stuffer / Unstuffer commands (41_stuffer.md R102, R103). -/

namespace Sys2Proof.Machine

/-- `STUFF` (R102). In the one-byte case `ST_OUT1` is the filler 0. -/
def execStuff (s : State) : Host.Outcome State Fault Refusal :=
  if isRsv s.params s.byteIn then .next (s.setStuffed s.params.esc s.byteIn 2#2).succeed
  else .next (s.setStuffed s.byteIn 0x00#8 1#2).succeed

/-- `UNSTUFF` (R103). -/
def execUnstuff (s : State) : Host.Outcome State Fault Refusal :=
  let r := unstuff s.params s.unW0 s.unW1
  .next (s.setUnstuffed r.1 (BitVec.ofNat 2 r.2)).succeed

end Sys2Proof.Machine
end

