-- ==== Sys2Proof/Machine/Dispatch.lean ====
section
/-! DEFINITION. The meaning of every command, one arm per constructor of `Instr`. -/

namespace Sys2Proof.Machine

def exec (i : Instr) (s : State) : Host.Outcome State Fault Refusal :=
  match i with
  | .isEsc => Sys2Proof.Machine.execIsEsc s
  | .isStx => Sys2Proof.Machine.execIsStx s
  | .isEtx => Sys2Proof.Machine.execIsEtx s
  | .isRsv => Sys2Proof.Machine.execIsRsv s
  | .stuff => Sys2Proof.Machine.execStuff s
  | .unstuff => Sys2Proof.Machine.execUnstuff s
  | .encode => Sys2Proof.Machine.execEncode s
  | .decode => Sys2Proof.Machine.execDecode s
  | .emptyFrame => Sys2Proof.Machine.execEmptyFrame s
  | .attachPayload => Sys2Proof.Machine.execAttachPayload s

end Sys2Proof.Machine
end

