-- ==== Sys2Proof/Machine/Step.lean ====
section
/-! DEFINITION. One step: the host's next action takes effect (00_scope.md R6; 70_reset_and_hazards.md R191; log 4). -/

namespace Sys2Proof.Machine

/-- An action of the host takes effect: a write of `CMD` executes the command of its code to completion, an illegal
code raises `ILLEGAL_COMMAND`, and every other action has its effect on what is stored (10_state.md R21, R23;
30_encoding.md R62, R63). -/
def act (a : HostAction) (s : State) : Host.Outcome State Fault Refusal :=
  match commandCode a with
  | none => .next (s.hostEffect a)
  | some c =>
    match decode c with
    | .ok i => exec i s
    | .error _ => .next s.illegalCommand

/-- One step: the next action, or nothing where the sequence is exhausted (log 4). -/
def step (s : State) : Host.Outcome State Fault Refusal :=
  match s.nextAction with
  | none => .next s
  | some (a, s') => act a s'

/-- The state whose next host action issues the instruction word's code: how the host asks for one command to run
first (log 4, log 10). -/
def State.withFetchWord (s : State) (nbits w : Nat) : State := s.setPending (issue (tableCode nbits w) :: s.pending)

end Sys2Proof.Machine
end

