-- ==== Sys2Proof/Machine/Script.lean ====
section
/-! DEFINITION. The host notation of 30_encoding.md R82: script lines and pseudo-commands as lists of host actions. A
value or an address that a line names and that does not fit is the host action's to settle (log 6, log 12). -/

namespace Sys2Proof.Machine

/-- `WR reg, v`. A value of more bits than the register has is log 6. -/
def lineWR (r : Reg) (v : Nat) : List HostAction := [.writeReg (regNo r) v]

/-- `RD reg`. -/
def lineRD (r : Reg) : List HostAction := [.readReg (regNo r)]

/-- `WM space, a, [b0 b1 ...]`: one write a byte, at `a`, `a + 1`, ... (20_memory.md R49). What a run past the last
address of the space writes is log 12. -/
def lineWM (sp : MemSpace) (a : Nat) (bs : List Byte) : List HostAction :=
  match bs with
  | [] => []
  | b :: rest => .writeMem sp a b :: lineWM sp (a + 1) rest

/-- `RM space, a, k`: one read a byte. What a run past the last address of the space reads is log 12. -/
def lineRM (sp : MemSpace) (a k : Nat) : List HostAction :=
  match k with
  | 0 => []
  | k' + 1 => .readMem sp a :: lineRM sp (a + 1) k'

/-- `CMD name`. -/
def lineCMD (i : Instr) : List HostAction := [issue (encode i)]

/-- `FRAME t, f, c`. -/
def lineFRAME (t f c : Nat) : List HostAction := lineWR .frType t ++ lineWR .frFlags f ++ lineWR .frChk c

/-- `PAYLOAD [b0 ... b(k-1)]`, for `k >= 1`. The spec does not say what `WR ARG_N, k` writes when `k` exceeds the 8-bit
register: the model's choice is `k mod 256` (log 6; log 12 for the addresses). -/
def linePAYLOAD (bs : List Byte) : List HostAction :=
  lineWM .pay 0 bs ++ lineWR .argView 0x01 ++ lineWR .argN bs.length ++ lineCMD .attachPayload

/-- `NOPAYLOAD`. -/
def lineNOPAYLOAD : List HostAction := lineWR .frPlen 0 ++ lineWR .frPview 0x00

/-- `DSTBUF cap`. A capacity of `2^CW` or more is log 6. -/
def lineDSTBUF (cap : Nat) : List HostAction := lineWR .dstCap cap ++ lineWR .dstCtl 0x01

/-- `SRCBUF [b0 ... b(k-1)]`. The spec does not say what `WR SRC_LEN, k` writes when `k` is `2^CW` or more: the model's
choice is `k mod 2^CW` (log 6; log 12 for the addresses). -/
def lineSRCBUF (bs : List Byte) : List HostAction :=
  lineWM .src 0 bs ++ lineWR .srcLen bs.length ++ lineWR .srcCtl 0x01

/-- `SCRBUF cap`. A capacity of `2^CW` or more is log 6. -/
def lineSCRBUF (cap : Nat) : List HostAction := lineWR .scrCap cap

end Sys2Proof.Machine
end

