-- ==== Sys2Proof/Safety.lean ====
section
/-! DEFINITION. The terms claims are stated in: what a legal state is, what a safe run is, wire units, and the spec's
tables of register access, result locations and error codes, written out apart from the machine. -/

namespace Sys2Proof.Machine

/-! ### Legal states and safe runs -/

/-- The answer the stuffer's result registers hold: nothing yet (10_state.md R29), one plain byte with the filler 0, or
`ESC` and a reserved byte (41_stuffer.md R102). -/
def State.StuffedOk (s : State) : Prop :=
  (s.stN = 0#2 ∧ s.stOut0 = 0x00#8 ∧ s.stOut1 = 0x00#8)
  ∨ (s.stN = 1#2 ∧ isRsv s.params s.stOut0 = false ∧ s.stOut1 = 0x00#8)
  ∨ (s.stN = 2#2 ∧ s.stOut0 = s.params.esc ∧ isRsv s.params s.stOut1 = true)

/-- The answer the unstuffer's result registers hold: nothing yet, one byte that is not `ESC`, or an escaped byte
(41_stuffer.md R103; 10_state.md R29). -/
def State.UnstuffedOk (s : State) : Prop :=
  (s.unConsumed = 0#2 ∧ s.unByte = 0x00#8) ∨ (s.unConsumed = 1#2 ∧ s.unByte ≠ s.params.esc) ∨ s.unConsumed = 2#2

/-- The four `CW`-bit registers hold numbers of `CW` bits (10_state.md R18 to R20; 00_scope.md R4; log 3). -/
abbrev State.CountsOk (s : State) : Prop :=
  s.dstCap < 2 ^ s.params.cw ∧ s.written < 2 ^ s.params.cw ∧ s.srcLen < 2 ^ s.params.cw ∧ s.scrCap < 2 ^ s.params.cw

/-- The invariant of every run: valid parameters; `STATUS` is one of the seven codes (60_exceptions.md R160); the
result registers hold an answer their command can give; `WRITTEN` is 0 or the length of a frame, 7 to 265
(30_encoding.md R75); the `CW`-bit registers hold `CW`-bit numbers; and the memories are in canonical form. -/
structure State.Inv (s : State) : Prop where
  params : s.params.Valid
  status : s.status.toNat ≤ 6
  stuffed : s.StuffedOk
  unstuffed : s.UnstuffedOk
  written : s.written = 0 ∨ (7 ≤ s.written ∧ s.written ≤ 265)
  counts : s.CountsOk
  memories : ∀ sp, Memory.wf s.params.aw (s.mem sp) = true

/-- A safe step: it answers a next state, neither a fault nor a refusal. -/
def State.Safe (s : State) : Prop := ∃ t, step s = .next t

/-- The result code of the most recent command is `OK`. -/
abbrev State.Ok (s : State) : Prop := s.status = 0x00#8

/-! ### Bytes in a memory, and wire units -/

/-- The memory of a space holds these bytes at addresses 0, 1, ... -/
def State.Shows (s : State) (sp : MemSpace) (bs : List Byte) : Prop :=
  ∀ k, k < bs.length → bs[k]? = some (s.memRead sp k)

/-- `w` is a wire unit that carries `v`: "either one byte that is not `ESC` (it stands for itself), or two bytes,
`ESC` followed by one byte of any value (the second byte is the logical value)" (30_encoding.md R71). -/
def WireUnit (p : Params) (w : List Byte) (v : Byte) : Prop := (w = [v] ∧ v ≠ p.esc) ∨ w = [p.esc, v]

/-- A wire unit that `stuff` produces: a non-reserved byte, or `ESC` and a reserved byte (41_stuffer.md R105). -/
def CanonicalUnit (p : Params) (w : List Byte) : Prop :=
  (∃ b, w = [b] ∧ isRsv p b = false) ∨ (∃ b, w = [p.esc, b] ∧ isRsv p b = true)

/-- A byte sequence parsed into wire units from its first byte (30_encoding.md R71); an `ESC` with no byte after it
stands alone. -/
def wireUnits (p : Params) (bs : List Byte) : List (List Byte) :=
  match bs with
  | [] => []
  | b :: rest =>
    if b = p.esc then
      match rest with
      | [] => [[b]]
      | c :: rest' => [b, c] :: wireUnits p rest'
    else [b] :: wireUnits p rest

/-- The wire bytes of a sequence of units, each with the byte it carries. -/
def unitBytes (us : List (List Byte × Byte)) : List Byte := us.flatMap Prod.fst

/-- The logical bytes of a sequence of units. -/
def unitValues (us : List (List Byte × Byte)) : List Byte := us.map Prod.snd

/-- Every unit carries its byte. -/
def UnitsOk (p : Params) (us : List (List Byte × Byte)) : Prop := ∀ u ∈ us, WireUnit p u.1 u.2

/-! ### The spec's tables -/

/-- The number of bits of a register, counted from bit 0, that are used; the others read 0 and ignore writes
(10_state.md R23, columns width and "used"; `CMD` stores nothing, R21). -/
def usedBits (p : Params) (r : Reg) : Nat :=
  match r with
  | .cmd => 0
  | .pred => 1
  | .stN => 2
  | .unConsumed => 2
  | .frPview => 2
  | .argView => 2
  | .dstCtl => 1
  | .srcCtl => 1
  | .dstCap => p.cw
  | .written => p.cw
  | .srcLen => p.cw
  | .scrCap => p.cw
  | .status => 8
  | .byteIn => 8
  | .stOut0 => 8
  | .stOut1 => 8
  | .unW0 => 8
  | .unW1 => 8
  | .unByte => 8
  | .frType => 8
  | .frFlags => 8
  | .frChk => 8
  | .frPlen => 8
  | .argN => 8

/-- The full width of a register (10_state.md R23, column width). -/
def regWidth (p : Params) (r : Reg) : Nat :=
  if r ∈ [Reg.dstCap, .written, .srcLen, .scrCap] then p.cw else 8

/-- The registers with host access RW (10_state.md R23). -/
def readWriteRegs : List Reg :=
  [.byteIn, .unW0, .unW1, .frType, .frFlags, .frChk, .frPlen, .frPview, .argView, .argN, .dstCtl, .dstCap, .srcCtl,
    .srcLen, .scrCap]

/-- The registers a command writes on success (30_encoding.md R64). -/
def resultRegs (i : Instr) : List Reg :=
  match i with
  | .isEsc => [.pred, .status]
  | .isStx => [.pred, .status]
  | .isEtx => [.pred, .status]
  | .isRsv => [.pred, .status]
  | .stuff => [.stOut0, .stOut1, .stN, .status]
  | .unstuff => [.unByte, .unConsumed, .status]
  | .encode => [.written, .status]
  | .decode => [.frType, .frFlags, .frChk, .frPlen, .frPview, .status]
  | .emptyFrame => [.frType, .frFlags, .frChk, .frPlen, .frPview, .status]
  | .attachPayload => [.frPlen, .frPview, .status]

/-- The memories a command writes on success (30_encoding.md R64; 20_memory.md R44). -/
def resultSpaces (i : Instr) : List MemSpace :=
  match i with
  | .encode => [.dst]
  | .decode => [.scr]
  | .isEsc => []
  | .isStx => []
  | .isEtx => []
  | .isRsv => []
  | .stuff => []
  | .unstuff => []
  | .emptyFrame => []
  | .attachPayload => []

/-- The status codes of the errors a command can raise (30_encoding.md R64, 60_exceptions.md R160): 1
`INVALID_HANDLE`, 2 `BUFFER_TOO_SMALL`, 3 `START_MISSING`, 4 `END_MISSING`, 5 `LENGTH_OVERFLOW`. -/
def raisableCodes (i : Instr) : List Byte :=
  match i with
  | .encode => [0x01#8, 0x05#8, 0x02#8]
  | .decode => [0x01#8, 0x03#8, 0x04#8, 0x02#8]
  | .attachPayload => [0x01#8, 0x02#8]
  | .isEsc => []
  | .isStx => []
  | .isEtx => []
  | .isRsv => []
  | .stuff => []
  | .unstuff => []
  | .emptyFrame => []

end Sys2Proof.Machine
end

