-- ==== Sys2Proof/Certificates/Slice0/Obligations.lean ====
section
/-! DEFINITION. The statements for the provers, from the spec's numbered rules. Nothing here is proved. -/

open Sys2Proof Sys2Proof.Machine

/-! ### Reset, steps and the host's actions -/

/-- 10_state.md R29: the register values after reset, for every parameter choice; the memories are not cleared, and
hold whatever they hold. -/
def Obligations.ResetRegisterValues : Prop :=
  ∀ (p : Params) (pay scr dst src : Memory) (acts : List HostAction) (r : Reg),
    let s := State.resetWith p pay scr dst src acts
    s.readReg r = (if r = .frType then p.typeNone.toNat else 0)
      ∧ s.pay = pay ∧ s.scr = scr ∧ s.dst = dst ∧ s.src = src

/-- 70_reset_and_hazards.md R181: after reset, with no host action, `ENCODE` and `DECODE` both raise `INVALID_HANDLE`. -/
def Obligations.CodecNeedsConfigurationAfterReset : Prop :=
  ∀ (p : Params) (pay scr dst src : Memory) (acts : List HostAction),
    let s := State.resetWith p pay scr dst src acts
    exec .encode s = .next { s with status := 0x01#8 } ∧ exec .decode s = .next { s with status := 0x01#8 }

/-- The state after reset is legal, for every valid instance and whatever its memories hold (in canonical form, log 5);
so is `State.reset`, which has the spec's default parameters (the model's choice, log 2), no listed byte (log 5) and no
action asked for (log 4). -/
def Obligations.ResetIsLegal : Prop :=
  (∀ (p : Params) (pay scr dst src : Memory) (acts : List HostAction), p.Valid →
      Memory.wf p.aw pay = true → Memory.wf p.aw scr = true → Memory.wf p.aw dst = true → Memory.wf p.aw src = true →
      (State.resetWith p pay scr dst src acts).Inv)
    ∧ State.reset.Inv ∧ State.reset.pending = []

/-- Every step from a legal state leads to a legal state (`State.Inv`), whatever the host does. -/
def Obligations.StepKeepsLegalStates : Prop :=
  ∀ s t : State, s.Inv → step s = .next t → t.Inv

/-- 70_reset_and_hazards.md R191: no sequence of host actions faults or leaves the block stuck, and the run is over when
the sequence is exhausted (that a step with nothing left to do changes nothing is the model's choice, log 4). -/
def Obligations.EverySequenceRunsToItsEnd : Prop :=
  ∀ s : State, ∃ t : State, t.pending = []
    ∧ ∀ n, s.pending.length ≤ n → Sys2Proof.core.run n s = .next t

/-- 10_state.md R21: a write of a command's code to `CMD` executes the command, a read returns 0, the register stores
nothing. -/
def Obligations.CmdWriteExecutesTheDecodedCommand : Prop :=
  (∀ (s : State) (c : Byte) (rest : List HostAction) (i : Instr),
      s.pending = issue c :: rest → decode c = .ok i → step s = exec i { s with pending := rest })
    ∧ ∀ s : State, s.hostReads (.readReg 0) = some 0 ∧ ∀ v, s.writeReg .cmd v = s

/-- A word of the opcode table that decodes runs as the very next step (the model's own interface, log 4, log 10). -/
def Obligations.FetchedWordRunsNext : Prop :=
  ∀ (s : State) (nbits w : Nat) (i : Instr),
    decodeTableWord nbits w = some i → step (s.withFetchWord nbits w) = exec i s

/-- 30_encoding.md R62: every code the table does not list is illegal, and writing it sets `STATUS` to 6 and changes
nothing else. -/
def Obligations.IllegalCodesRaise : Prop :=
  ∀ (s : State) (c : Byte) (rest : List HostAction),
    s.pending = issue c :: rest →
    (c.toNat = 0 ∨ (5 ≤ c.toNat ∧ c.toNat ≤ 0x0F) ∨ (0x12 ≤ c.toNat ∧ c.toNat ≤ 0x1F)
      ∨ (0x22 ≤ c.toNat ∧ c.toNat ≤ 0x2F) ∨ 0x32 ≤ c.toNat) →
    step s = .next { s with pending := rest, status := 0x06#8 }

/-- 30_encoding.md R61: the code table, the code matched on all eight bits. -/
def Obligations.CommandCodesDecodeAsTabled : Prop :=
  ∀ (c : Byte) (i : Instr), decode c = .ok i ↔ (c, i) ∈
    [(0x01#8, Instr.isEsc), (0x02#8, .isStx), (0x03#8, .isEtx), (0x04#8, .isRsv), (0x10#8, .stuff), (0x11#8, .unstuff),
      (0x20#8, .encode), (0x21#8, .decode), (0x30#8, .emptyFrame), (0x31#8, .attachPayload)]

/-- Decoding a command's code gives the command back, and each code stands for one command. -/
def Obligations.DecodeAndEncodeAgree : Prop :=
  (∀ i : Instr, i.wellFormed = true → decode (encode i) = .ok i)
    ∧ ∀ (c : Byte) (i : Instr), decode c = .ok i → encode i = c

/-- The encoding of a script (30_encoding.md R82) and its decoding are inverse, both ways, for scripts of any length. -/
def Obligations.ScriptCodesRoundTrip : Prop :=
  (∀ is : List Instr, decodeScript (encodeScript is) = .ok is)
    ∧ ∀ (cs : List Byte) (is : List Instr), decodeScript cs = .ok is → encodeScript is = cs

/-- A host write of any register number but `CMD`'s: a read-write register takes the bits it uses, a read-only register
and a number of 24 or above take nothing, and everything else is as before (10_state.md, register access rules). That a
register takes the low bits of a value wider than itself is the model's choice (log 6). -/
def Obligations.HostRegisterWriteFollowsAccessRules : Prop :=
  ∀ (s : State) (no v : Nat) (rest : List HostAction),
    no ≠ 0 → s.pending = .writeReg no v :: rest →
    ∃ t : State, step s = .next t
      ∧ (∀ r, t.readReg r = if regNo r = no ∧ r ∈ readWriteRegs then v % 2 ^ usedBits s.params r else s.readReg r)
      ∧ (∀ sp, t.mem sp = s.mem sp) ∧ t.params = s.params ∧ t.pending = rest

/-- A value wider than its register, and an address of more than `AW` bits, act as their low bits do (the model's choice,
log 6 and log 12; the spec describes accesses at the full width of the register, and addresses inside the space). -/
def Obligations.WideHostNumbersActAsTheirLowBits : Prop :=
  ∀ (s : State) (rest : List HostAction),
    (∀ (r : Reg) (v : Nat), step { s with pending := .writeReg (regNo r) v :: rest }
        = step { s with pending := .writeReg (regNo r) (v % 2 ^ regWidth s.params r) :: rest })
      ∧ (∀ (sp : MemSpace) (a : Nat) (v : Byte), step { s with pending := .writeMem sp a v :: rest }
        = step { s with pending := .writeMem sp (a % 2 ^ s.params.aw) v :: rest })
      ∧ ∀ (sp : MemSpace) (a : Nat), s.hostReads (.readMem sp a) = s.hostReads (.readMem sp (a % 2 ^ s.params.aw))

/-- A host read changes nothing and delivers the register, one equation for each row of the register table; a register
whose content has fewer bits reads 0 above them, and a number of 24 or above reads 0 (10_state.md, register access
rules). The value is delivered as a number, so the zero bits above a register are no choice of the model. -/
def Obligations.HostReadsHaveNoSideEffect : Prop :=
  ∀ s : State,
    (∀ no rest, s.pending = .readReg no :: rest → step s = .next { s with pending := rest })
      ∧ (∀ sp a rest, s.pending = .readMem sp a :: rest → step s = .next { s with pending := rest })
      ∧ s.hostReads (.readReg 0) = some 0
      ∧ s.hostReads (.readReg 1) = some s.status.toNat
      ∧ s.hostReads (.readReg 2) = some s.byteIn.toNat
      ∧ s.hostReads (.readReg 3) = some s.pred.toNat
      ∧ s.hostReads (.readReg 4) = some s.stOut0.toNat
      ∧ s.hostReads (.readReg 5) = some s.stOut1.toNat
      ∧ s.hostReads (.readReg 6) = some s.stN.toNat
      ∧ s.hostReads (.readReg 7) = some s.unW0.toNat
      ∧ s.hostReads (.readReg 8) = some s.unW1.toNat
      ∧ s.hostReads (.readReg 9) = some s.unByte.toNat
      ∧ s.hostReads (.readReg 10) = some s.unConsumed.toNat
      ∧ s.hostReads (.readReg 11) = some s.frType.toNat
      ∧ s.hostReads (.readReg 12) = some s.frFlags.toNat
      ∧ s.hostReads (.readReg 13) = some s.frChk.toNat
      ∧ s.hostReads (.readReg 14) = some s.frPlen.toNat
      ∧ s.hostReads (.readReg 15) = some s.frPview.toNat
      ∧ s.hostReads (.readReg 16) = some s.argView.toNat
      ∧ s.hostReads (.readReg 17) = some s.argN.toNat
      ∧ s.hostReads (.readReg 18) = some s.dstCtl.toNat
      ∧ s.hostReads (.readReg 19) = some s.dstCap
      ∧ s.hostReads (.readReg 20) = some s.written
      ∧ s.hostReads (.readReg 21) = some s.srcCtl.toNat
      ∧ s.hostReads (.readReg 22) = some s.srcLen
      ∧ s.hostReads (.readReg 23) = some s.scrCap
      ∧ (∀ no, 24 ≤ no → s.hostReads (.readReg no) = some 0)
      ∧ (∀ r, s.readReg r = (s.hostReads (.readReg (regNo r))).getD 0)
      ∧ (s.CountsOk → ∀ r, s.readReg r < 2 ^ usedBits s.params r)

/-- 20_memory.md R49: the host reads and writes any byte of any space, `0 <= a < 2^AW`, with no check against the extent
registers and no side effect. -/
def Obligations.HostMemoryAccessTouchesOneByte : Prop :=
  ∀ (s : State) (sp : MemSpace) (a : Nat) (v : Byte) (rest : List HostAction),
    a < 2 ^ s.params.aw →
    (s.pending = .writeMem sp a v :: rest →
      ∃ t : State, step s = .next t
        ∧ (∀ sp' a', t.memRead sp' a' = if sp' = sp ∧ a' = a then v else s.memRead sp' a')
        ∧ (∀ r, t.readReg r = s.readReg r) ∧ t.params = s.params ∧ t.pending = rest)
      ∧ (s.pending = .readMem sp a :: rest → step s = .next { s with pending := rest })
      ∧ s.hostReads (.readMem sp a) = some (s.memRead sp a).toNat

/-- The pseudo-command `PAYLOAD [b0 ... b(k-1)]`, `1 <= k <= 255` (30_encoding.md R82), leaves its bytes as the Frame's
logical payload. -/
def Obligations.PayloadPseudoCommandAttaches : Prop :=
  ∀ (s : State) (bs : List Byte) (rest : List HostAction),
    s.params.WidthsOk → 1 ≤ bs.length → bs.length ≤ 255 → s.pending = linePAYLOAD bs ++ rest →
    ∃ t : State, Sys2Proof.core.run (bs.length + 3) s = .next t
      ∧ t.payload = bs ∧ t.frPlen.toNat = bs.length ∧ t.frPview = 1#2 ∧ t.Ok ∧ t.pending = rest

/-- The pseudo-command `SRCBUF [b0 ... b(k-1)]` (30_encoding.md R82) with `k < 2^CW` leaves its bytes at the start of
`SRC`, `k` in `SRC_LEN` and the buffer present; no other register and no other memory changes. -/
def Obligations.SourcePseudoCommandLoads : Prop :=
  ∀ (s : State) (bs : List Byte) (rest : List HostAction),
    s.params.WidthsOk → bs.length < 2 ^ s.params.cw → s.pending = lineSRCBUF bs ++ rest →
    ∃ t : State, Sys2Proof.core.run (bs.length + 2) s = .next t
      ∧ t = { s with src := t.src, srcLen := bs.length, srcCtl := 1#1, pending := rest }
      ∧ ∀ a, t.memRead .src a = (bs[a]?).getD (s.memRead .src a)

/-- The pseudo-commands `FRAME`, `NOPAYLOAD`, `DSTBUF` and `SCRBUF` (30_encoding.md R82) set the registers their
expansions name, and nothing else. -/
def Obligations.RegisterPseudoCommandsConfigure : Prop :=
  ∀ (s : State) (t f c : Byte) (cap : Nat) (rest : List HostAction),
    cap < 2 ^ s.params.cw →
    (s.pending = lineFRAME t.toNat f.toNat c.toNat ++ rest →
        Sys2Proof.core.run 3 s = .next { s with frType := t, frFlags := f, frChk := c, pending := rest })
      ∧ (s.pending = lineNOPAYLOAD ++ rest →
        Sys2Proof.core.run 2 s = .next { s with frPlen := 0x00#8, frPview := 0#2, pending := rest })
      ∧ (s.pending = lineDSTBUF cap ++ rest →
        Sys2Proof.core.run 2 s = .next { s with dstCap := cap, dstCtl := 1#1, pending := rest })
      ∧ (s.pending = lineSCRBUF cap ++ rest →
        Sys2Proof.core.run 1 s = .next { s with scrCap := cap, pending := rest })

/-! ### Classifier -/

/-- 40_classifier.md R90 to R93: each predicate command writes its answer to `PRED`, `OK` to `STATUS`, and changes
nothing else. -/
def Obligations.ClassifierCommandsAnswer : Prop :=
  ∀ s : State,
    exec .isEsc s = .next { s with pred := if s.byteIn = s.params.esc then 1#1 else 0#1, status := 0x00#8 }
      ∧ exec .isStx s = .next { s with pred := if s.byteIn = s.params.stx then 1#1 else 0#1, status := 0x00#8 }
      ∧ exec .isEtx s = .next { s with pred := if s.byteIn = s.params.etx then 1#1 else 0#1, status := 0x00#8 }
      ∧ exec .isRsv s = .next
          { s with
            pred := if s.byteIn = s.params.esc ∨ s.byteIn = s.params.stx ∨ s.byteIn = s.params.etx then 1#1 else 0#1
            status := 0x00#8 }

/-- 40_classifier.md R94: no byte satisfies more than one predicate; the default values satisfy the constraint. -/
def Obligations.ReservedValuesAreDisjoint : Prop :=
  (∀ (p : Params) (b : Byte), p.Disjoint →
      ¬(isEsc p b = true ∧ isStx p b = true) ∧ ¬(isEsc p b = true ∧ isEtx p b = true)
        ∧ ¬(isStx p b = true ∧ isEtx p b = true))
    ∧ Params.default.Disjoint

/-- 40_classifier.md R95: the answer depends on `BYTE_IN` and the parameters alone, and asking twice gives the same
answer. -/
def Obligations.PredicatesArePure : Prop :=
  ∀ (i : Instr) (s s' t t' : State), i ∈ [Instr.isEsc, .isStx, .isEtx, .isRsv] →
    s.byteIn = s'.byteIn → s.params = s'.params → exec i s = .next t → exec i s' = .next t' →
    t.pred = t'.pred ∧ exec i t = .next t

/-! ### Stuffer -/

/-- 41_stuffer.md R100, R101: the two functions. -/
def Obligations.StuffAndUnstuffFunctions : Prop :=
  ∀ (p : Params) (b w : Byte),
    stuff p b = (if b = p.esc ∨ b = p.stx ∨ b = p.etx then [p.esc, b] else [b])
      ∧ stuffLen p b = (stuff p b).length
      ∧ unstuff p b w = (if b = p.esc then (w, 2) else (b, 1))

/-- 41_stuffer.md R102: `STUFF`. -/
def Obligations.StuffCommandAnswers : Prop :=
  ∀ s : State,
    exec .stuff s = .next
      (if s.byteIn = s.params.esc ∨ s.byteIn = s.params.stx ∨ s.byteIn = s.params.etx
        then { s with stOut0 := s.params.esc, stOut1 := s.byteIn, stN := 2#2, status := 0x00#8 }
        else { s with stOut0 := s.byteIn, stOut1 := 0x00#8, stN := 1#2, status := 0x00#8 })

/-- 41_stuffer.md R103: `UNSTUFF`. -/
def Obligations.UnstuffCommandAnswers : Prop :=
  ∀ s : State,
    exec .unstuff s = .next
      (if s.unW0 = s.params.esc then { s with unByte := s.unW1, unConsumed := 2#2, status := 0x00#8 }
        else { s with unByte := s.unW0, unConsumed := 1#2, status := 0x00#8 })

/-- 41_stuffer.md R104, on the functions and on the commands: unstuffing the bytes that stuffing produced (any second
byte where it produced one) gives the byte back and consumes as many bytes as were produced. -/
def Obligations.UnstuffInvertsStuff : Prop :=
  (∀ (p : Params) (b w : Byte),
      (isRsv p b = true → ∃ s0 s1, stuff p b = [s0, s1] ∧ unstuff p s0 s1 = (b, stuffLen p b) ∧ stuffLen p b = 2)
        ∧ (isRsv p b = false → ∃ s0, stuff p b = [s0] ∧ unstuff p s0 w = (b, stuffLen p b) ∧ stuffLen p b = 1))
    ∧ ∀ s t u : State,
      exec .stuff s = .next t → u.params = s.params → u.unW0 = t.stOut0 → (t.stN = 2#2 → u.unW1 = t.stOut1) →
      ∃ v : State, exec .unstuff u = .next v ∧ v.unByte = s.byteIn ∧ v.unConsumed = t.stN

/-- 41_stuffer.md R105: a stuffed sequence parses into exactly the units `stuff` produced; a 1-byte unit is a
non-reserved byte, a 2-byte unit is `ESC` and a reserved byte. -/
def Obligations.StuffedSequenceIsTransparent : Prop :=
  ∀ (p : Params) (bs : List Byte),
    wireUnits p (bs.flatMap (stuff p)) = bs.map (stuff p)
      ∧ ∀ u ∈ wireUnits p (bs.flatMap (stuff p)), CanonicalUnit p u

/-! ### ENCODE -/

/-- 42_encode.md R110, R111, R113, R115, R118: the whole of `ENCODE`, the three tests in their order and the frame
written, with what a failure and a success leave unchanged. -/
def Obligations.EncodeFollowsItsAlgorithm : Prop :=
  ∀ s : State,
    let space := if s.frPview.getLsbD 1 = true then MemSpace.scr else MemSpace.pay
    let p := (List.range s.frPlen.toNat).map (s.memRead space)
    let wlen := (p.map fun b => (stuff s.params b).length).sum
    let c := if s.frFlags &&& s.params.flagIgnchk ≠ 0x00#8 then 0x00#8 else s.frChk
    let frame := [s.params.stx] ++ stuff s.params s.frType ++ stuff s.params s.frFlags
      ++ [s.params.esc, BitVec.ofNat 8 wlen] ++ p.flatMap (stuff s.params) ++ stuff s.params c ++ [s.params.etx]
    let handles := s.dstCtl = 1#1 ∧ (s.frPlen = 0x00#8 ∨ s.frPview.getLsbD 0 = true)
    (¬handles → exec .encode s = .next { s with status := 0x01#8 })
      ∧ (handles → 255 < wlen → exec .encode s = .next { s with status := 0x05#8 })
      ∧ (handles → wlen ≤ 255 → s.dstCap < frame.length → exec .encode s = .next { s with status := 0x02#8 })
      ∧ (handles → wlen ≤ 255 → frame.length ≤ s.dstCap →
          ∃ t : State, exec .encode s = .next t
            ∧ t = { s with dst := t.dst, written := frame.length, status := 0x00#8 }
            ∧ ∀ a, t.memRead .dst a = (frame[a]?).getD (s.memRead .dst a))

/-- 30_encoding.md R75: sizes. `R` is the number of reserved payload bytes, `r(b)` is 1 for a reserved byte. -/
def Obligations.EncodedFrameSizes : Prop :=
  ∀ s t : State, exec .encode s = .next t →
    let r := fun b => if isRsv s.params b = true then 1 else 0
    let c := transmittedChecksum s.params s.frFlags s.frChk
    let n := s.frPlen.toNat
    let R := (s.payload.filter (isRsv s.params)).length
    R ≤ n ∧ (t.Ok → t.written = 7 + r s.frType + r s.frFlags + r c + (n + R)
        ∧ 7 ≤ t.written ∧ t.written ≤ 265 ∧ R ≤ 255 - n ∧ (n = 0 → t.written ≤ 10))
      ∧ (n ≤ 127 → t.status ≠ 0x05#8)
      ∧ (10 + 2 * n ≤ s.dstCap → t.status ≠ 0x02#8)

/-- 42_encode.md R112: when `wlen > 255` and the handles are there, `LENGTH_OVERFLOW`, whatever the capacity; it needs
`n >= 128`, always fires for `n = 255` with a reserved byte, and nothing but `STATUS` changes. On success the length
field holds `wlen`, never truncated. -/
def Obligations.EncodeLengthOverflow : Prop :=
  ∀ s t : State, exec .encode s = .next t →
    let n := s.frPlen.toNat
    let R := (s.payload.filter (isRsv s.params)).length
    (t.status = 0x05#8 ↔ present s.dstCtl = true ∧ viewValid s.frPview = true ∧ 255 < n + R)
      ∧ (t.status = 0x05#8 → 128 ≤ n ∧ t = { s with status := 0x05#8 })
      ∧ (present s.dstCtl = true → viewValid s.frPview = true → n = 255 →
          (∃ b ∈ s.payload, isRsv s.params b = true) → t.status = 0x05#8)
      ∧ (t.Ok → n + R ≤ 255 ∧
          (t.memRead .dst (2 + (stuff s.params s.frType).length + (stuff s.params s.frFlags).length)).toNat = n + R)

/-- 42_encode.md R116: where the length field lies and what it holds. -/
def Obligations.LengthFieldPlaceAndValue : Prop :=
  ∀ s t : State, exec .encode s = .next t → t.Ok →
    let a := 1 + (stuff s.params s.frType).length + (stuff s.params s.frFlags).length
    let wlen := (s.payload.flatMap (stuff s.params)).length
    3 ≤ a ∧ a ≤ 5 ∧ wlen ≤ 255 ∧ t.memRead .dst a = s.params.esc ∧ t.memRead .dst (a + 1) = BitVec.ofNat 8 wlen

/-- 42_encode.md R114, 30_encoding.md R77: the transmitted checksum is `stuff(0)` when the flag is set and the Frame's
otherwise; the Frame keeps both registers, and the flags byte is transmitted unchanged. -/
def Obligations.IgnoreChecksumAffectsTheWireOnly : Prop :=
  ∀ s t : State, exec .encode s = .next t → t.Ok →
    let c := if s.frFlags &&& s.params.flagIgnchk ≠ 0x00#8 then 0x00#8 else s.frChk
    let chkAt := t.written - 1 - (stuff s.params c).length
    let flagsAt := 1 + (stuff s.params s.frType).length
    (∀ j, j < (stuff s.params c).length → (stuff s.params c)[j]? = some (t.memRead .dst (chkAt + j)))
      ∧ (∀ j, j < (stuff s.params s.frFlags).length →
          (stuff s.params s.frFlags)[j]? = some (t.memRead .dst (flagsAt + j)))
      ∧ t.frChk = s.frChk ∧ t.frFlags = s.frFlags

/-- With the ignore-checksum flag set, the checksum register has no influence on the frame (the "Ignore-checksum"
property of 42_encode.md section 3). -/
def Obligations.IgnoredChecksumHasNoInfluence : Prop :=
  ∀ (s t : State) (c : Byte), s.frFlags &&& s.params.flagIgnchk ≠ 0x00#8 → exec .encode s = .next t →
    exec .encode { s with frChk := c } = .next { t with frChk := c }

/-- 30_encoding.md R79: what every encoded frame looks like, wire unit by wire unit. -/
def Obligations.EncodedFrameIsTransparent : Prop :=
  ∀ s t : State, s.params.Valid → exec .encode s = .next t → t.Ok →
    ∃ (inner : List Byte) (ut uf uc : List Byte) (len : Byte) (payload : List (List Byte)),
      t.written = inner.length + 2
        ∧ t.Shows .dst ([s.params.stx] ++ inner ++ [s.params.etx])
        ∧ (wireUnits s.params inner).flatten = inner
        ∧ wireUnits s.params inner = [ut, uf, [s.params.esc, len]] ++ payload ++ [uc]
        ∧ (∀ u ∈ ut :: uf :: uc :: payload, CanonicalUnit s.params u)
        ∧ len.toNat = payload.flatten.length

/-- The frame is a function of the Frame registers, the payload bytes, the destination's descriptor and the parameters
(the "Determinism" property of 42_encode.md section 3). -/
def Obligations.EncodeDependsOnItsOperandsOnly : Prop :=
  ∀ s s' t t' : State,
    s.params = s'.params → s.frType = s'.frType → s.frFlags = s'.frFlags → s.frChk = s'.frChk →
    s.payload = s'.payload → s.frPlen = s'.frPlen → viewValid s.frPview = viewValid s'.frPview →
    s.dstCtl = s'.dstCtl → s.dstCap = s'.dstCap → exec .encode s = .next t → exec .encode s' = .next t' →
    t.status = t'.status
      ∧ (t.Ok → t.written = t'.written ∧ ∀ a, a < t.written → t.memRead .dst a = t'.memRead .dst a)

/-! ### DECODE -/

/-- 43_decode.md R134: the handle test and the start delimiter, and nothing later reports these two codes. -/
def Obligations.DecodeHandleAndStartDelimiter : Prop :=
  ∀ s : State,
    (s.srcCtl = 0#1 → exec .decode s = .next { s with status := 0x01#8 })
      ∧ (s.srcCtl = 1#1 → (s.srcLen = 0 ∨ s.memRead .src 0 ≠ s.params.stx) →
          exec .decode s = .next { s with status := 0x03#8 })
      ∧ (s.srcCtl = 1#1 → s.srcLen ≠ 0 → s.memRead .src 0 = s.params.stx →
          ∃ t : State, exec .decode s = .next t ∧ t.status ≠ 0x01#8 ∧ t.status ≠ 0x03#8)

/-- A source buffer that holds a wire frame (any units, canonical or not, and anything after the end delimiter) is
decoded into the values its units carry; only the Frame registers, `SCR` below the logical length and `STATUS`
change (43_decode.md, sections 1 and 2). -/
def Obligations.DecodeAcceptsEveryWireFrame : Prop :=
  ∀ (s : State) (wt wf wl wc : List Byte) (t f cnt c : Byte) (us : List (List Byte × Byte)),
    WireUnit s.params wt t → WireUnit s.params wf f → WireUnit s.params wl cnt → WireUnit s.params wc c →
    UnitsOk s.params us → (unitBytes us).length = cnt.toNat →
    let wire := [s.params.stx] ++ wt ++ wf ++ wl ++ unitBytes us ++ wc ++ [s.params.etx]
    s.srcCtl = 1#1 → wire.length ≤ s.srcLen → s.Shows .src wire → us.length ≤ s.scrCap →
    ∃ u : State, exec .decode s = .next u
      ∧ u = { s with
              frType := t, frFlags := f, frChk := c, frPlen := BitVec.ofNat 8 us.length
              frPview := if cnt = 0x00#8 then 0#2 else 3#2, scr := u.scr, status := 0x00#8 }
      ∧ u.frPlen.toNat = us.length
      ∧ ∀ a, u.memRead .scr a = ((unitValues us)[a]?).getD (s.memRead .scr a)

/-- The converse: a `DECODE` that succeeds has found a wire frame within the readable bytes whose units carry exactly
what the Frame registers and `SCR` then hold, with the view in `SCR`, or "no payload" for a count of 0. -/
def Obligations.DecodeAcceptsOnlyWireFrames : Prop :=
  ∀ s u : State, exec .decode s = .next u → u.Ok →
    ∃ (wt wf wl wc : List Byte) (cnt : Byte) (us : List (List Byte × Byte)),
      WireUnit s.params wt u.frType ∧ WireUnit s.params wf u.frFlags ∧ WireUnit s.params wl cnt
        ∧ WireUnit s.params wc u.frChk ∧ UnitsOk s.params us ∧ (unitBytes us).length = cnt.toNat
        ∧ s.srcCtl = 1#1
        ∧ ([s.params.stx] ++ wt ++ wf ++ wl ++ unitBytes us ++ wc ++ [s.params.etx]).length ≤ s.srcLen
        ∧ s.Shows .src ([s.params.stx] ++ wt ++ wf ++ wl ++ unitBytes us ++ wc ++ [s.params.etx])
        ∧ u.frPlen.toNat = us.length ∧ us.length ≤ s.scrCap ∧ u.Shows .scr (unitValues us)
        ∧ u.frPview = (if cnt = 0x00#8 then 0#2 else 3#2)

/-- A wire frame whose readable length cuts it short is `END_MISSING`, and nothing but `STATUS` changes (43_decode.md,
bounded read; corner case c). The scratch capacity matters only where the whole payload region is readable: cut short
before its end, the frame is `END_MISSING` whatever `SCR_CAP` is (order of the tests). -/
def Obligations.TruncatedFrameIsEndMissing : Prop :=
  ∀ (s : State) (wt wf wl wc : List Byte) (t f cnt c : Byte) (us : List (List Byte × Byte)),
    WireUnit s.params wt t → WireUnit s.params wf f → WireUnit s.params wl cnt → WireUnit s.params wc c →
    UnitsOk s.params us → (unitBytes us).length = cnt.toNat →
    let wire := [s.params.stx] ++ wt ++ wf ++ wl ++ unitBytes us ++ wc ++ [s.params.etx]
    s.srcCtl = 1#1 → 1 ≤ s.srcLen → s.srcLen < wire.length →
    s.Shows .src wire →
    (([s.params.stx] ++ wt ++ wf ++ wl ++ unitBytes us).length ≤ s.srcLen → us.length ≤ s.scrCap) →
    exec .decode s = .next { s with status := 0x04#8 }

/-- 43_decode.md R136: a unit that begins with `ESC` at the last wire byte of the payload budget is `END_MISSING`. -/
def Obligations.StraddlingUnitIsEndMissing : Prop :=
  ∀ (s : State) (wt wf wl : List Byte) (t f cnt : Byte) (us : List (List Byte × Byte)),
    WireUnit s.params wt t → WireUnit s.params wf f → WireUnit s.params wl cnt →
    UnitsOk s.params us → (unitBytes us).length + 1 = cnt.toNat →
    let head := [s.params.stx] ++ wt ++ wf ++ wl ++ unitBytes us ++ [s.params.esc]
    s.srcCtl = 1#1 → head.length ≤ s.srcLen → s.Shows .src head →
    exec .decode s = .next { s with status := 0x04#8 }

/-- A whole payload region of more logical bytes than `SCR_CAP` is `BUFFER_TOO_SMALL`, whatever follows the region, and
nothing but `STATUS` changes (43_decode.md, scratch capacity and order of tests). -/
def Obligations.PayloadLargerThanScratchIsRejected : Prop :=
  ∀ (s : State) (wt wf wl : List Byte) (t f cnt : Byte) (us : List (List Byte × Byte)),
    WireUnit s.params wt t → WireUnit s.params wf f → WireUnit s.params wl cnt →
    UnitsOk s.params us → (unitBytes us).length = cnt.toNat →
    let head := [s.params.stx] ++ wt ++ wf ++ wl ++ unitBytes us
    s.srcCtl = 1#1 → head.length ≤ s.srcLen → s.Shows .src head → s.scrCap < us.length →
    exec .decode s = .next { s with status := 0x02#8 }

/-- A byte other than `ETX` where the end delimiter must stand is `END_MISSING`, and nothing but `STATUS` changes
(43_decode.md, end delimiter). -/
def Obligations.WrongEndDelimiterIsEndMissing : Prop :=
  ∀ (s : State) (wt wf wl wc : List Byte) (t f cnt c e : Byte) (us : List (List Byte × Byte)),
    WireUnit s.params wt t → WireUnit s.params wf f → WireUnit s.params wl cnt → WireUnit s.params wc c →
    UnitsOk s.params us → (unitBytes us).length = cnt.toNat → e ≠ s.params.etx →
    let wire := [s.params.stx] ++ wt ++ wf ++ wl ++ unitBytes us ++ wc ++ [e]
    s.srcCtl = 1#1 → wire.length ≤ s.srcLen → s.Shows .src wire → us.length ≤ s.scrCap →
    exec .decode s = .next { s with status := 0x04#8 }

/-- "Bytes of `SRC` at or beyond `SRC_LEN` never influence the result" (43_decode.md, bounded read). -/
def Obligations.BytesBeyondSourceLengthHaveNoInfluence : Prop :=
  ∀ (s t : State) (src' : Memory),
    (∀ k, k < s.srcLen → ({ s with src := src' } : State).memRead .src k = s.memRead .src k) →
    exec .decode s = .next t → exec .decode { s with src := src' } = .next { t with src := src' }

/-- The round trip: what `ENCODE` wrote to `DST`, copied to `SRC` of any framer with the same parameters and room
enough, decodes to the encoded type, flags, length and payload, with the checksum that was transmitted; the view is
then in `SCR`, or "no payload" for length 0 (43_decode.md section 3). -/
def Obligations.DecodeInvertsEncode : Prop :=
  ∀ s t d : State, exec .encode s = .next t → t.Ok →
    d.params = s.params → d.srcCtl = 1#1 → t.written ≤ d.srcLen →
    (∀ k, k < t.written → d.memRead .src k = t.memRead .dst k) → s.frPlen.toNat ≤ d.scrCap →
    ∃ u : State, exec .decode d = .next u ∧ u.Ok
      ∧ u.frType = s.frType ∧ u.frFlags = s.frFlags ∧ u.frPlen = s.frPlen ∧ u.Shows .scr s.payload
      ∧ u.frChk = (if s.frFlags &&& s.params.flagIgnchk ≠ 0x00#8 then 0x00#8 else s.frChk)
      ∧ u.frPview = (if s.frPlen = 0x00#8 then 0#2 else 3#2)

/-! ### Frame helpers -/

/-- 44_frame_helpers.md R150: `EMPTY_FRAME`. -/
def Obligations.EmptyFrameGivesTheDefaultFrame : Prop :=
  ∀ s : State,
    exec .emptyFrame s = .next
      { s with
        frType := s.params.typeNone, frFlags := 0x00#8, frChk := 0x00#8, frPlen := 0x00#8, frPview := 0#2
        status := 0x00#8 }

/-- 44_frame_helpers.md R151: `ATTACH_PAYLOAD`, its two rejections in their order and its effect. -/
def Obligations.AttachPayloadRebindsOrRejects : Prop :=
  ∀ s : State,
    (s.argView.getLsbD 0 = false → exec .attachPayload s = .next { s with status := 0x01#8 })
      ∧ (s.argView.getLsbD 0 = true → s.argN = 0x00#8 → exec .attachPayload s = .next { s with status := 0x02#8 })
      ∧ (s.argView.getLsbD 0 = true → s.argN ≠ 0x00#8 →
          exec .attachPayload s = .next
            { s with
              frPview := if s.argView.getLsbD 1 = true then 3#2 else 1#2, frPlen := s.argN, status := 0x00#8 })

/-- The payload view invariant (10_state.md section 2): no command breaks it; a successful `ATTACH_PAYLOAD` leaves a
payload of non-zero length, `EMPTY_FRAME` "no payload", a successful `DECODE` one of the two. -/
def Obligations.CommandsKeepThePayloadViewInvariant : Prop :=
  (∀ (i : Instr) (s t : State), exec i s = .next t →
      (s.frPlen ≠ 0x00#8 → viewValid s.frPview = true) → (t.frPlen ≠ 0x00#8 → viewValid t.frPview = true))
    ∧ (∀ s t : State, exec .attachPayload s = .next t → t.Ok → t.frPlen ≠ 0x00#8 ∧ viewValid t.frPview = true)
    ∧ (∀ s t : State, exec .emptyFrame s = .next t → t.frPlen = 0x00#8 ∧ viewValid t.frPview = false)
    ∧ (∀ s t : State, exec .decode s = .next t → t.Ok → (t.frPlen ≠ 0x00#8 ↔ viewValid t.frPview = true))

/-! ### Rules of the whole machine -/

/-- 60_exceptions.md R163: a command that fails changes `STATUS` and nothing else, an illegal code among them. -/
def Obligations.FailedCommandChangesStatusOnly : Prop :=
  (∀ (i : Instr) (s t : State), exec i s = .next t → t.status ≠ 0x00#8 → t = { s with status := t.status })
    ∧ ∀ (s : State) (c : Byte) (rest : List HostAction) (e : DecodeError),
        s.pending = issue c :: rest → decode c = .error e → step s = .next { s with pending := rest, status := 0x06#8 }

/-- 60_exceptions.md R160: after every command `STATUS` is 0, or the code of an error that command can raise; codes 7 to
255 never appear. -/
def Obligations.StatusCodesOfEachCommand : Prop :=
  (∀ (i : Instr) (s t : State), exec i s = .next t → t.status = 0x00#8 ∨ t.status ∈ raisableCodes i)
    ∧ (∀ (s : State) (c : Byte) (rest : List HostAction) (t : State),
        s.pending = issue c :: rest → step s = .next t → t.status.toNat ≤ 6)
    ∧ okCode = 0x00#8 ∧ errorCode .invalidHandle = 0x01#8 ∧ errorCode .bufferTooSmall = 0x02#8
    ∧ errorCode .startMissing = 0x03#8 ∧ errorCode .endMissing = 0x04#8 ∧ errorCode .lengthOverflow = 0x05#8
    ∧ errorCode .illegalCommand = 0x06#8

/-- 10_state.md R26: no command's behaviour depends on the `STATUS` or `PRED` left by an earlier command; `STATUS` is
overwritten, and `PRED` is overwritten by the classifier and kept by the others. -/
def Obligations.StatusAndPredSteerNothing : Prop :=
  ∀ (i : Instr) (s t : State) (x : Byte) (y : BitVec 1), exec i s = .next t →
    exec i { s with status := x, pred := y }
      = .next { t with pred := if i ∈ [Instr.isEsc, .isStx, .isEtx, .isRsv] then t.pred else y }

/-- 30_encoding.md R64, 10_state.md R17: a command writes its result registers and memories only. -/
def Obligations.CommandsWriteTheirResultsOnly : Prop :=
  ∀ (i : Instr) (s t : State), exec i s = .next t →
    (∀ r, r ∉ resultRegs i → t.readReg r = s.readReg r)
      ∧ (∀ sp, sp ∉ resultSpaces i → t.mem sp = s.mem sp)
      ∧ t.params = s.params ∧ t.pending = s.pending

/-- 20_memory.md R44, writes: `ENCODE` writes `DST` below `WRITTEN`, which is at most `DST_CAP`; `DECODE` writes `SCR`
below the logical length, which is at most `SCR_CAP`; a command that fails writes no byte. -/
def Obligations.CommandsWriteInsideTheirFootprint : Prop :=
  ∀ s t : State,
    (exec .encode s = .next t →
        (t.Ok → t.written ≤ s.dstCap)
          ∧ ∀ a, (¬t.Ok ∨ t.written ≤ a) → t.memRead .dst a = s.memRead .dst a)
      ∧ (exec .decode s = .next t →
        (t.Ok → t.frPlen.toNat ≤ s.scrCap)
          ∧ ∀ a, (¬t.Ok ∨ t.frPlen.toNat ≤ a) → t.memRead .scr a = s.memRead .scr a)

/-- 20_memory.md R44, reads: eight commands read no memory; `ENCODE` reads only the payload bytes of the view, so not
`DST` either; `DECODE` reads only `SRC` (its bound is `BytesBeyondSourceLengthHaveNoInfluence`), so not `SCR` either.
What such a command writes, it writes over the changed memory. -/
def Obligations.CommandsReadInsideTheirFootprint : Prop :=
  (∀ (i : Instr) (s t : State) (m0 m1 m2 m3 : Memory), i ≠ .encode → i ≠ .decode → exec i s = .next t →
      exec i { s with pay := m0, scr := m1, dst := m2, src := m3 }
        = .next { t with pay := m0, scr := m1, dst := m2, src := m3 })
    ∧ (∀ (s t : State) (m0 m1 m2 m3 : Memory),
        let s' : State := { s with pay := m0, scr := m1, dst := m2, src := m3 }
        (∀ k, k < s.frPlen.toNat → s'.memRead (viewSpace s.frPview) k = s.memRead (viewSpace s.frPview) k) →
        exec .encode s = .next t →
        (m2 = s.dst → exec .encode s' = .next { t with pay := m0, scr := m1, src := m3 })
          ∧ ∃ t' : State, exec .encode s' = .next t'
            ∧ t' = { t with pay := m0, scr := m1, dst := t'.dst, src := m3 }
            ∧ ∀ a, t'.memRead .dst a = if t.Ok ∧ a < t.written then t.memRead .dst a else s'.memRead .dst a)
    ∧ ∀ (s t : State) (m0 m1 m2 : Memory),
        let s' : State := { s with pay := m0, scr := m1, dst := m2 }
        exec .decode s = .next t →
        (m1 = s.scr → exec .decode s' = .next { t with pay := m0, dst := m2 })
          ∧ ∃ t' : State, exec .decode s' = .next t'
            ∧ t' = { t with pay := m0, scr := t'.scr, dst := m2 }
            ∧ ∀ a, t'.memRead .scr a = if t.Ok ∧ a < t.frPlen.toNat then t.memRead .scr a else s'.memRead .scr a
end

