-- ==== Sys2Proof/Laws/State.lean ====
section
/-! SUPPORT. One lemma per field and per update of State: what each shared update leaves in each field. Then what the
updates do to memory reads. -/

namespace Sys2Proof.Machine

variable (s : State)

@[simp] theorem State.raise_eq (e : ErrorKind) : s.raise e = s.setStatus (errorCode e) := rfl
@[simp] theorem State.succeed_eq : s.succeed = s.setStatus 0x00#8 := rfl
@[simp] theorem State.illegalCommand_eq : s.illegalCommand = s.setStatus 0x06#8 := rfl

/-! ### `setStatus` -/

@[simp] theorem State.setStatus_params (c : Byte) : (s.setStatus c).params = s.params := rfl
@[simp] theorem State.setStatus_status (c : Byte) : (s.setStatus c).status = c := rfl
@[simp] theorem State.setStatus_byteIn (c : Byte) : (s.setStatus c).byteIn = s.byteIn := rfl
@[simp] theorem State.setStatus_pred (c : Byte) : (s.setStatus c).pred = s.pred := rfl
@[simp] theorem State.setStatus_stOut0 (c : Byte) : (s.setStatus c).stOut0 = s.stOut0 := rfl
@[simp] theorem State.setStatus_stOut1 (c : Byte) : (s.setStatus c).stOut1 = s.stOut1 := rfl
@[simp] theorem State.setStatus_stN (c : Byte) : (s.setStatus c).stN = s.stN := rfl
@[simp] theorem State.setStatus_unW0 (c : Byte) : (s.setStatus c).unW0 = s.unW0 := rfl
@[simp] theorem State.setStatus_unW1 (c : Byte) : (s.setStatus c).unW1 = s.unW1 := rfl
@[simp] theorem State.setStatus_unByte (c : Byte) : (s.setStatus c).unByte = s.unByte := rfl
@[simp] theorem State.setStatus_unConsumed (c : Byte) : (s.setStatus c).unConsumed = s.unConsumed := rfl
@[simp] theorem State.setStatus_frType (c : Byte) : (s.setStatus c).frType = s.frType := rfl
@[simp] theorem State.setStatus_frFlags (c : Byte) : (s.setStatus c).frFlags = s.frFlags := rfl
@[simp] theorem State.setStatus_frChk (c : Byte) : (s.setStatus c).frChk = s.frChk := rfl
@[simp] theorem State.setStatus_frPlen (c : Byte) : (s.setStatus c).frPlen = s.frPlen := rfl
@[simp] theorem State.setStatus_frPview (c : Byte) : (s.setStatus c).frPview = s.frPview := rfl
@[simp] theorem State.setStatus_argView (c : Byte) : (s.setStatus c).argView = s.argView := rfl
@[simp] theorem State.setStatus_argN (c : Byte) : (s.setStatus c).argN = s.argN := rfl
@[simp] theorem State.setStatus_dstCtl (c : Byte) : (s.setStatus c).dstCtl = s.dstCtl := rfl
@[simp] theorem State.setStatus_dstCap (c : Byte) : (s.setStatus c).dstCap = s.dstCap := rfl
@[simp] theorem State.setStatus_written (c : Byte) : (s.setStatus c).written = s.written := rfl
@[simp] theorem State.setStatus_srcCtl (c : Byte) : (s.setStatus c).srcCtl = s.srcCtl := rfl
@[simp] theorem State.setStatus_srcLen (c : Byte) : (s.setStatus c).srcLen = s.srcLen := rfl
@[simp] theorem State.setStatus_scrCap (c : Byte) : (s.setStatus c).scrCap = s.scrCap := rfl
@[simp] theorem State.setStatus_pay (c : Byte) : (s.setStatus c).pay = s.pay := rfl
@[simp] theorem State.setStatus_scr (c : Byte) : (s.setStatus c).scr = s.scr := rfl
@[simp] theorem State.setStatus_dst (c : Byte) : (s.setStatus c).dst = s.dst := rfl
@[simp] theorem State.setStatus_src (c : Byte) : (s.setStatus c).src = s.src := rfl
@[simp] theorem State.setStatus_pending (c : Byte) : (s.setStatus c).pending = s.pending := rfl
@[simp] theorem State.setStatus_mem (c : Byte) (sp : MemSpace) : (s.setStatus c).mem sp = s.mem sp := by cases sp <;> rfl
@[simp] theorem State.setStatus_memRead (c : Byte) (sp : MemSpace) (a : Nat) : (s.setStatus c).memRead sp a = s.memRead sp a := by
  cases sp <;> rfl

/-! ### `setPred` -/

@[simp] theorem State.setPred_params (b : BitVec 1) : (s.setPred b).params = s.params := rfl
@[simp] theorem State.setPred_status (b : BitVec 1) : (s.setPred b).status = s.status := rfl
@[simp] theorem State.setPred_byteIn (b : BitVec 1) : (s.setPred b).byteIn = s.byteIn := rfl
@[simp] theorem State.setPred_pred (b : BitVec 1) : (s.setPred b).pred = b := rfl
@[simp] theorem State.setPred_stOut0 (b : BitVec 1) : (s.setPred b).stOut0 = s.stOut0 := rfl
@[simp] theorem State.setPred_stOut1 (b : BitVec 1) : (s.setPred b).stOut1 = s.stOut1 := rfl
@[simp] theorem State.setPred_stN (b : BitVec 1) : (s.setPred b).stN = s.stN := rfl
@[simp] theorem State.setPred_unW0 (b : BitVec 1) : (s.setPred b).unW0 = s.unW0 := rfl
@[simp] theorem State.setPred_unW1 (b : BitVec 1) : (s.setPred b).unW1 = s.unW1 := rfl
@[simp] theorem State.setPred_unByte (b : BitVec 1) : (s.setPred b).unByte = s.unByte := rfl
@[simp] theorem State.setPred_unConsumed (b : BitVec 1) : (s.setPred b).unConsumed = s.unConsumed := rfl
@[simp] theorem State.setPred_frType (b : BitVec 1) : (s.setPred b).frType = s.frType := rfl
@[simp] theorem State.setPred_frFlags (b : BitVec 1) : (s.setPred b).frFlags = s.frFlags := rfl
@[simp] theorem State.setPred_frChk (b : BitVec 1) : (s.setPred b).frChk = s.frChk := rfl
@[simp] theorem State.setPred_frPlen (b : BitVec 1) : (s.setPred b).frPlen = s.frPlen := rfl
@[simp] theorem State.setPred_frPview (b : BitVec 1) : (s.setPred b).frPview = s.frPview := rfl
@[simp] theorem State.setPred_argView (b : BitVec 1) : (s.setPred b).argView = s.argView := rfl
@[simp] theorem State.setPred_argN (b : BitVec 1) : (s.setPred b).argN = s.argN := rfl
@[simp] theorem State.setPred_dstCtl (b : BitVec 1) : (s.setPred b).dstCtl = s.dstCtl := rfl
@[simp] theorem State.setPred_dstCap (b : BitVec 1) : (s.setPred b).dstCap = s.dstCap := rfl
@[simp] theorem State.setPred_written (b : BitVec 1) : (s.setPred b).written = s.written := rfl
@[simp] theorem State.setPred_srcCtl (b : BitVec 1) : (s.setPred b).srcCtl = s.srcCtl := rfl
@[simp] theorem State.setPred_srcLen (b : BitVec 1) : (s.setPred b).srcLen = s.srcLen := rfl
@[simp] theorem State.setPred_scrCap (b : BitVec 1) : (s.setPred b).scrCap = s.scrCap := rfl
@[simp] theorem State.setPred_pay (b : BitVec 1) : (s.setPred b).pay = s.pay := rfl
@[simp] theorem State.setPred_scr (b : BitVec 1) : (s.setPred b).scr = s.scr := rfl
@[simp] theorem State.setPred_dst (b : BitVec 1) : (s.setPred b).dst = s.dst := rfl
@[simp] theorem State.setPred_src (b : BitVec 1) : (s.setPred b).src = s.src := rfl
@[simp] theorem State.setPred_pending (b : BitVec 1) : (s.setPred b).pending = s.pending := rfl
@[simp] theorem State.setPred_mem (b : BitVec 1) (sp : MemSpace) : (s.setPred b).mem sp = s.mem sp := by cases sp <;> rfl
@[simp] theorem State.setPred_memRead (b : BitVec 1) (sp : MemSpace) (a : Nat) : (s.setPred b).memRead sp a = s.memRead sp a := by
  cases sp <;> rfl

/-! ### `setStuffed` -/

@[simp] theorem State.setStuffed_params (b0 b1 : Byte) (n : BitVec 2) : (s.setStuffed b0 b1 n).params = s.params := rfl
@[simp] theorem State.setStuffed_status (b0 b1 : Byte) (n : BitVec 2) : (s.setStuffed b0 b1 n).status = s.status := rfl
@[simp] theorem State.setStuffed_byteIn (b0 b1 : Byte) (n : BitVec 2) : (s.setStuffed b0 b1 n).byteIn = s.byteIn := rfl
@[simp] theorem State.setStuffed_pred (b0 b1 : Byte) (n : BitVec 2) : (s.setStuffed b0 b1 n).pred = s.pred := rfl
@[simp] theorem State.setStuffed_stOut0 (b0 b1 : Byte) (n : BitVec 2) : (s.setStuffed b0 b1 n).stOut0 = b0 := rfl
@[simp] theorem State.setStuffed_stOut1 (b0 b1 : Byte) (n : BitVec 2) : (s.setStuffed b0 b1 n).stOut1 = b1 := rfl
@[simp] theorem State.setStuffed_stN (b0 b1 : Byte) (n : BitVec 2) : (s.setStuffed b0 b1 n).stN = n := rfl
@[simp] theorem State.setStuffed_unW0 (b0 b1 : Byte) (n : BitVec 2) : (s.setStuffed b0 b1 n).unW0 = s.unW0 := rfl
@[simp] theorem State.setStuffed_unW1 (b0 b1 : Byte) (n : BitVec 2) : (s.setStuffed b0 b1 n).unW1 = s.unW1 := rfl
@[simp] theorem State.setStuffed_unByte (b0 b1 : Byte) (n : BitVec 2) : (s.setStuffed b0 b1 n).unByte = s.unByte := rfl
@[simp] theorem State.setStuffed_unConsumed (b0 b1 : Byte) (n : BitVec 2) : (s.setStuffed b0 b1 n).unConsumed = s.unConsumed := rfl
@[simp] theorem State.setStuffed_frType (b0 b1 : Byte) (n : BitVec 2) : (s.setStuffed b0 b1 n).frType = s.frType := rfl
@[simp] theorem State.setStuffed_frFlags (b0 b1 : Byte) (n : BitVec 2) : (s.setStuffed b0 b1 n).frFlags = s.frFlags := rfl
@[simp] theorem State.setStuffed_frChk (b0 b1 : Byte) (n : BitVec 2) : (s.setStuffed b0 b1 n).frChk = s.frChk := rfl
@[simp] theorem State.setStuffed_frPlen (b0 b1 : Byte) (n : BitVec 2) : (s.setStuffed b0 b1 n).frPlen = s.frPlen := rfl
@[simp] theorem State.setStuffed_frPview (b0 b1 : Byte) (n : BitVec 2) : (s.setStuffed b0 b1 n).frPview = s.frPview := rfl
@[simp] theorem State.setStuffed_argView (b0 b1 : Byte) (n : BitVec 2) : (s.setStuffed b0 b1 n).argView = s.argView := rfl
@[simp] theorem State.setStuffed_argN (b0 b1 : Byte) (n : BitVec 2) : (s.setStuffed b0 b1 n).argN = s.argN := rfl
@[simp] theorem State.setStuffed_dstCtl (b0 b1 : Byte) (n : BitVec 2) : (s.setStuffed b0 b1 n).dstCtl = s.dstCtl := rfl
@[simp] theorem State.setStuffed_dstCap (b0 b1 : Byte) (n : BitVec 2) : (s.setStuffed b0 b1 n).dstCap = s.dstCap := rfl
@[simp] theorem State.setStuffed_written (b0 b1 : Byte) (n : BitVec 2) : (s.setStuffed b0 b1 n).written = s.written := rfl
@[simp] theorem State.setStuffed_srcCtl (b0 b1 : Byte) (n : BitVec 2) : (s.setStuffed b0 b1 n).srcCtl = s.srcCtl := rfl
@[simp] theorem State.setStuffed_srcLen (b0 b1 : Byte) (n : BitVec 2) : (s.setStuffed b0 b1 n).srcLen = s.srcLen := rfl
@[simp] theorem State.setStuffed_scrCap (b0 b1 : Byte) (n : BitVec 2) : (s.setStuffed b0 b1 n).scrCap = s.scrCap := rfl
@[simp] theorem State.setStuffed_pay (b0 b1 : Byte) (n : BitVec 2) : (s.setStuffed b0 b1 n).pay = s.pay := rfl
@[simp] theorem State.setStuffed_scr (b0 b1 : Byte) (n : BitVec 2) : (s.setStuffed b0 b1 n).scr = s.scr := rfl
@[simp] theorem State.setStuffed_dst (b0 b1 : Byte) (n : BitVec 2) : (s.setStuffed b0 b1 n).dst = s.dst := rfl
@[simp] theorem State.setStuffed_src (b0 b1 : Byte) (n : BitVec 2) : (s.setStuffed b0 b1 n).src = s.src := rfl
@[simp] theorem State.setStuffed_pending (b0 b1 : Byte) (n : BitVec 2) : (s.setStuffed b0 b1 n).pending = s.pending := rfl
@[simp] theorem State.setStuffed_mem (b0 b1 : Byte) (n : BitVec 2) (sp : MemSpace) : (s.setStuffed b0 b1 n).mem sp = s.mem sp := by cases sp <;> rfl
@[simp] theorem State.setStuffed_memRead (b0 b1 : Byte) (n : BitVec 2) (sp : MemSpace) (a : Nat) : (s.setStuffed b0 b1 n).memRead sp a = s.memRead sp a := by
  cases sp <;> rfl

/-! ### `setUnstuffed` -/

@[simp] theorem State.setUnstuffed_params (v : Byte) (k : BitVec 2) : (s.setUnstuffed v k).params = s.params := rfl
@[simp] theorem State.setUnstuffed_status (v : Byte) (k : BitVec 2) : (s.setUnstuffed v k).status = s.status := rfl
@[simp] theorem State.setUnstuffed_byteIn (v : Byte) (k : BitVec 2) : (s.setUnstuffed v k).byteIn = s.byteIn := rfl
@[simp] theorem State.setUnstuffed_pred (v : Byte) (k : BitVec 2) : (s.setUnstuffed v k).pred = s.pred := rfl
@[simp] theorem State.setUnstuffed_stOut0 (v : Byte) (k : BitVec 2) : (s.setUnstuffed v k).stOut0 = s.stOut0 := rfl
@[simp] theorem State.setUnstuffed_stOut1 (v : Byte) (k : BitVec 2) : (s.setUnstuffed v k).stOut1 = s.stOut1 := rfl
@[simp] theorem State.setUnstuffed_stN (v : Byte) (k : BitVec 2) : (s.setUnstuffed v k).stN = s.stN := rfl
@[simp] theorem State.setUnstuffed_unW0 (v : Byte) (k : BitVec 2) : (s.setUnstuffed v k).unW0 = s.unW0 := rfl
@[simp] theorem State.setUnstuffed_unW1 (v : Byte) (k : BitVec 2) : (s.setUnstuffed v k).unW1 = s.unW1 := rfl
@[simp] theorem State.setUnstuffed_unByte (v : Byte) (k : BitVec 2) : (s.setUnstuffed v k).unByte = v := rfl
@[simp] theorem State.setUnstuffed_unConsumed (v : Byte) (k : BitVec 2) : (s.setUnstuffed v k).unConsumed = k := rfl
@[simp] theorem State.setUnstuffed_frType (v : Byte) (k : BitVec 2) : (s.setUnstuffed v k).frType = s.frType := rfl
@[simp] theorem State.setUnstuffed_frFlags (v : Byte) (k : BitVec 2) : (s.setUnstuffed v k).frFlags = s.frFlags := rfl
@[simp] theorem State.setUnstuffed_frChk (v : Byte) (k : BitVec 2) : (s.setUnstuffed v k).frChk = s.frChk := rfl
@[simp] theorem State.setUnstuffed_frPlen (v : Byte) (k : BitVec 2) : (s.setUnstuffed v k).frPlen = s.frPlen := rfl
@[simp] theorem State.setUnstuffed_frPview (v : Byte) (k : BitVec 2) : (s.setUnstuffed v k).frPview = s.frPview := rfl
@[simp] theorem State.setUnstuffed_argView (v : Byte) (k : BitVec 2) : (s.setUnstuffed v k).argView = s.argView := rfl
@[simp] theorem State.setUnstuffed_argN (v : Byte) (k : BitVec 2) : (s.setUnstuffed v k).argN = s.argN := rfl
@[simp] theorem State.setUnstuffed_dstCtl (v : Byte) (k : BitVec 2) : (s.setUnstuffed v k).dstCtl = s.dstCtl := rfl
@[simp] theorem State.setUnstuffed_dstCap (v : Byte) (k : BitVec 2) : (s.setUnstuffed v k).dstCap = s.dstCap := rfl
@[simp] theorem State.setUnstuffed_written (v : Byte) (k : BitVec 2) : (s.setUnstuffed v k).written = s.written := rfl
@[simp] theorem State.setUnstuffed_srcCtl (v : Byte) (k : BitVec 2) : (s.setUnstuffed v k).srcCtl = s.srcCtl := rfl
@[simp] theorem State.setUnstuffed_srcLen (v : Byte) (k : BitVec 2) : (s.setUnstuffed v k).srcLen = s.srcLen := rfl
@[simp] theorem State.setUnstuffed_scrCap (v : Byte) (k : BitVec 2) : (s.setUnstuffed v k).scrCap = s.scrCap := rfl
@[simp] theorem State.setUnstuffed_pay (v : Byte) (k : BitVec 2) : (s.setUnstuffed v k).pay = s.pay := rfl
@[simp] theorem State.setUnstuffed_scr (v : Byte) (k : BitVec 2) : (s.setUnstuffed v k).scr = s.scr := rfl
@[simp] theorem State.setUnstuffed_dst (v : Byte) (k : BitVec 2) : (s.setUnstuffed v k).dst = s.dst := rfl
@[simp] theorem State.setUnstuffed_src (v : Byte) (k : BitVec 2) : (s.setUnstuffed v k).src = s.src := rfl
@[simp] theorem State.setUnstuffed_pending (v : Byte) (k : BitVec 2) : (s.setUnstuffed v k).pending = s.pending := rfl
@[simp] theorem State.setUnstuffed_mem (v : Byte) (k : BitVec 2) (sp : MemSpace) : (s.setUnstuffed v k).mem sp = s.mem sp := by cases sp <;> rfl
@[simp] theorem State.setUnstuffed_memRead (v : Byte) (k : BitVec 2) (sp : MemSpace) (a : Nat) : (s.setUnstuffed v k).memRead sp a = s.memRead sp a := by
  cases sp <;> rfl

/-! ### `setHeader` -/

@[simp] theorem State.setHeader_params (t f c : Byte) : (s.setHeader t f c).params = s.params := rfl
@[simp] theorem State.setHeader_status (t f c : Byte) : (s.setHeader t f c).status = s.status := rfl
@[simp] theorem State.setHeader_byteIn (t f c : Byte) : (s.setHeader t f c).byteIn = s.byteIn := rfl
@[simp] theorem State.setHeader_pred (t f c : Byte) : (s.setHeader t f c).pred = s.pred := rfl
@[simp] theorem State.setHeader_stOut0 (t f c : Byte) : (s.setHeader t f c).stOut0 = s.stOut0 := rfl
@[simp] theorem State.setHeader_stOut1 (t f c : Byte) : (s.setHeader t f c).stOut1 = s.stOut1 := rfl
@[simp] theorem State.setHeader_stN (t f c : Byte) : (s.setHeader t f c).stN = s.stN := rfl
@[simp] theorem State.setHeader_unW0 (t f c : Byte) : (s.setHeader t f c).unW0 = s.unW0 := rfl
@[simp] theorem State.setHeader_unW1 (t f c : Byte) : (s.setHeader t f c).unW1 = s.unW1 := rfl
@[simp] theorem State.setHeader_unByte (t f c : Byte) : (s.setHeader t f c).unByte = s.unByte := rfl
@[simp] theorem State.setHeader_unConsumed (t f c : Byte) : (s.setHeader t f c).unConsumed = s.unConsumed := rfl
@[simp] theorem State.setHeader_frType (t f c : Byte) : (s.setHeader t f c).frType = t := rfl
@[simp] theorem State.setHeader_frFlags (t f c : Byte) : (s.setHeader t f c).frFlags = f := rfl
@[simp] theorem State.setHeader_frChk (t f c : Byte) : (s.setHeader t f c).frChk = c := rfl
@[simp] theorem State.setHeader_frPlen (t f c : Byte) : (s.setHeader t f c).frPlen = s.frPlen := rfl
@[simp] theorem State.setHeader_frPview (t f c : Byte) : (s.setHeader t f c).frPview = s.frPview := rfl
@[simp] theorem State.setHeader_argView (t f c : Byte) : (s.setHeader t f c).argView = s.argView := rfl
@[simp] theorem State.setHeader_argN (t f c : Byte) : (s.setHeader t f c).argN = s.argN := rfl
@[simp] theorem State.setHeader_dstCtl (t f c : Byte) : (s.setHeader t f c).dstCtl = s.dstCtl := rfl
@[simp] theorem State.setHeader_dstCap (t f c : Byte) : (s.setHeader t f c).dstCap = s.dstCap := rfl
@[simp] theorem State.setHeader_written (t f c : Byte) : (s.setHeader t f c).written = s.written := rfl
@[simp] theorem State.setHeader_srcCtl (t f c : Byte) : (s.setHeader t f c).srcCtl = s.srcCtl := rfl
@[simp] theorem State.setHeader_srcLen (t f c : Byte) : (s.setHeader t f c).srcLen = s.srcLen := rfl
@[simp] theorem State.setHeader_scrCap (t f c : Byte) : (s.setHeader t f c).scrCap = s.scrCap := rfl
@[simp] theorem State.setHeader_pay (t f c : Byte) : (s.setHeader t f c).pay = s.pay := rfl
@[simp] theorem State.setHeader_scr (t f c : Byte) : (s.setHeader t f c).scr = s.scr := rfl
@[simp] theorem State.setHeader_dst (t f c : Byte) : (s.setHeader t f c).dst = s.dst := rfl
@[simp] theorem State.setHeader_src (t f c : Byte) : (s.setHeader t f c).src = s.src := rfl
@[simp] theorem State.setHeader_pending (t f c : Byte) : (s.setHeader t f c).pending = s.pending := rfl
@[simp] theorem State.setHeader_mem (t f c : Byte) (sp : MemSpace) : (s.setHeader t f c).mem sp = s.mem sp := by cases sp <;> rfl
@[simp] theorem State.setHeader_memRead (t f c : Byte) (sp : MemSpace) (a : Nat) : (s.setHeader t f c).memRead sp a = s.memRead sp a := by
  cases sp <;> rfl

/-! ### `setPayload` -/

@[simp] theorem State.setPayload_params (n : Byte) (w : BitVec 2) : (s.setPayload n w).params = s.params := rfl
@[simp] theorem State.setPayload_status (n : Byte) (w : BitVec 2) : (s.setPayload n w).status = s.status := rfl
@[simp] theorem State.setPayload_byteIn (n : Byte) (w : BitVec 2) : (s.setPayload n w).byteIn = s.byteIn := rfl
@[simp] theorem State.setPayload_pred (n : Byte) (w : BitVec 2) : (s.setPayload n w).pred = s.pred := rfl
@[simp] theorem State.setPayload_stOut0 (n : Byte) (w : BitVec 2) : (s.setPayload n w).stOut0 = s.stOut0 := rfl
@[simp] theorem State.setPayload_stOut1 (n : Byte) (w : BitVec 2) : (s.setPayload n w).stOut1 = s.stOut1 := rfl
@[simp] theorem State.setPayload_stN (n : Byte) (w : BitVec 2) : (s.setPayload n w).stN = s.stN := rfl
@[simp] theorem State.setPayload_unW0 (n : Byte) (w : BitVec 2) : (s.setPayload n w).unW0 = s.unW0 := rfl
@[simp] theorem State.setPayload_unW1 (n : Byte) (w : BitVec 2) : (s.setPayload n w).unW1 = s.unW1 := rfl
@[simp] theorem State.setPayload_unByte (n : Byte) (w : BitVec 2) : (s.setPayload n w).unByte = s.unByte := rfl
@[simp] theorem State.setPayload_unConsumed (n : Byte) (w : BitVec 2) : (s.setPayload n w).unConsumed = s.unConsumed := rfl
@[simp] theorem State.setPayload_frType (n : Byte) (w : BitVec 2) : (s.setPayload n w).frType = s.frType := rfl
@[simp] theorem State.setPayload_frFlags (n : Byte) (w : BitVec 2) : (s.setPayload n w).frFlags = s.frFlags := rfl
@[simp] theorem State.setPayload_frChk (n : Byte) (w : BitVec 2) : (s.setPayload n w).frChk = s.frChk := rfl
@[simp] theorem State.setPayload_frPlen (n : Byte) (w : BitVec 2) : (s.setPayload n w).frPlen = n := rfl
@[simp] theorem State.setPayload_frPview (n : Byte) (w : BitVec 2) : (s.setPayload n w).frPview = w := rfl
@[simp] theorem State.setPayload_argView (n : Byte) (w : BitVec 2) : (s.setPayload n w).argView = s.argView := rfl
@[simp] theorem State.setPayload_argN (n : Byte) (w : BitVec 2) : (s.setPayload n w).argN = s.argN := rfl
@[simp] theorem State.setPayload_dstCtl (n : Byte) (w : BitVec 2) : (s.setPayload n w).dstCtl = s.dstCtl := rfl
@[simp] theorem State.setPayload_dstCap (n : Byte) (w : BitVec 2) : (s.setPayload n w).dstCap = s.dstCap := rfl
@[simp] theorem State.setPayload_written (n : Byte) (w : BitVec 2) : (s.setPayload n w).written = s.written := rfl
@[simp] theorem State.setPayload_srcCtl (n : Byte) (w : BitVec 2) : (s.setPayload n w).srcCtl = s.srcCtl := rfl
@[simp] theorem State.setPayload_srcLen (n : Byte) (w : BitVec 2) : (s.setPayload n w).srcLen = s.srcLen := rfl
@[simp] theorem State.setPayload_scrCap (n : Byte) (w : BitVec 2) : (s.setPayload n w).scrCap = s.scrCap := rfl
@[simp] theorem State.setPayload_pay (n : Byte) (w : BitVec 2) : (s.setPayload n w).pay = s.pay := rfl
@[simp] theorem State.setPayload_scr (n : Byte) (w : BitVec 2) : (s.setPayload n w).scr = s.scr := rfl
@[simp] theorem State.setPayload_dst (n : Byte) (w : BitVec 2) : (s.setPayload n w).dst = s.dst := rfl
@[simp] theorem State.setPayload_src (n : Byte) (w : BitVec 2) : (s.setPayload n w).src = s.src := rfl
@[simp] theorem State.setPayload_pending (n : Byte) (w : BitVec 2) : (s.setPayload n w).pending = s.pending := rfl
@[simp] theorem State.setPayload_mem (n : Byte) (w : BitVec 2) (sp : MemSpace) : (s.setPayload n w).mem sp = s.mem sp := by cases sp <;> rfl
@[simp] theorem State.setPayload_memRead (n : Byte) (w : BitVec 2) (sp : MemSpace) (a : Nat) : (s.setPayload n w).memRead sp a = s.memRead sp a := by
  cases sp <;> rfl

/-! ### `setWritten` -/

@[simp] theorem State.setWritten_params (n : Nat) : (s.setWritten n).params = s.params := rfl
@[simp] theorem State.setWritten_status (n : Nat) : (s.setWritten n).status = s.status := rfl
@[simp] theorem State.setWritten_byteIn (n : Nat) : (s.setWritten n).byteIn = s.byteIn := rfl
@[simp] theorem State.setWritten_pred (n : Nat) : (s.setWritten n).pred = s.pred := rfl
@[simp] theorem State.setWritten_stOut0 (n : Nat) : (s.setWritten n).stOut0 = s.stOut0 := rfl
@[simp] theorem State.setWritten_stOut1 (n : Nat) : (s.setWritten n).stOut1 = s.stOut1 := rfl
@[simp] theorem State.setWritten_stN (n : Nat) : (s.setWritten n).stN = s.stN := rfl
@[simp] theorem State.setWritten_unW0 (n : Nat) : (s.setWritten n).unW0 = s.unW0 := rfl
@[simp] theorem State.setWritten_unW1 (n : Nat) : (s.setWritten n).unW1 = s.unW1 := rfl
@[simp] theorem State.setWritten_unByte (n : Nat) : (s.setWritten n).unByte = s.unByte := rfl
@[simp] theorem State.setWritten_unConsumed (n : Nat) : (s.setWritten n).unConsumed = s.unConsumed := rfl
@[simp] theorem State.setWritten_frType (n : Nat) : (s.setWritten n).frType = s.frType := rfl
@[simp] theorem State.setWritten_frFlags (n : Nat) : (s.setWritten n).frFlags = s.frFlags := rfl
@[simp] theorem State.setWritten_frChk (n : Nat) : (s.setWritten n).frChk = s.frChk := rfl
@[simp] theorem State.setWritten_frPlen (n : Nat) : (s.setWritten n).frPlen = s.frPlen := rfl
@[simp] theorem State.setWritten_frPview (n : Nat) : (s.setWritten n).frPview = s.frPview := rfl
@[simp] theorem State.setWritten_argView (n : Nat) : (s.setWritten n).argView = s.argView := rfl
@[simp] theorem State.setWritten_argN (n : Nat) : (s.setWritten n).argN = s.argN := rfl
@[simp] theorem State.setWritten_dstCtl (n : Nat) : (s.setWritten n).dstCtl = s.dstCtl := rfl
@[simp] theorem State.setWritten_dstCap (n : Nat) : (s.setWritten n).dstCap = s.dstCap := rfl
@[simp] theorem State.setWritten_written (n : Nat) : (s.setWritten n).written = n := rfl
@[simp] theorem State.setWritten_srcCtl (n : Nat) : (s.setWritten n).srcCtl = s.srcCtl := rfl
@[simp] theorem State.setWritten_srcLen (n : Nat) : (s.setWritten n).srcLen = s.srcLen := rfl
@[simp] theorem State.setWritten_scrCap (n : Nat) : (s.setWritten n).scrCap = s.scrCap := rfl
@[simp] theorem State.setWritten_pay (n : Nat) : (s.setWritten n).pay = s.pay := rfl
@[simp] theorem State.setWritten_scr (n : Nat) : (s.setWritten n).scr = s.scr := rfl
@[simp] theorem State.setWritten_dst (n : Nat) : (s.setWritten n).dst = s.dst := rfl
@[simp] theorem State.setWritten_src (n : Nat) : (s.setWritten n).src = s.src := rfl
@[simp] theorem State.setWritten_pending (n : Nat) : (s.setWritten n).pending = s.pending := rfl
@[simp] theorem State.setWritten_mem (n : Nat) (sp : MemSpace) : (s.setWritten n).mem sp = s.mem sp := by cases sp <;> rfl
@[simp] theorem State.setWritten_memRead (n : Nat) (sp : MemSpace) (a : Nat) : (s.setWritten n).memRead sp a = s.memRead sp a := by
  cases sp <;> rfl

/-! ### `setPending` -/

@[simp] theorem State.setPending_params (as : List HostAction) : (s.setPending as).params = s.params := rfl
@[simp] theorem State.setPending_status (as : List HostAction) : (s.setPending as).status = s.status := rfl
@[simp] theorem State.setPending_byteIn (as : List HostAction) : (s.setPending as).byteIn = s.byteIn := rfl
@[simp] theorem State.setPending_pred (as : List HostAction) : (s.setPending as).pred = s.pred := rfl
@[simp] theorem State.setPending_stOut0 (as : List HostAction) : (s.setPending as).stOut0 = s.stOut0 := rfl
@[simp] theorem State.setPending_stOut1 (as : List HostAction) : (s.setPending as).stOut1 = s.stOut1 := rfl
@[simp] theorem State.setPending_stN (as : List HostAction) : (s.setPending as).stN = s.stN := rfl
@[simp] theorem State.setPending_unW0 (as : List HostAction) : (s.setPending as).unW0 = s.unW0 := rfl
@[simp] theorem State.setPending_unW1 (as : List HostAction) : (s.setPending as).unW1 = s.unW1 := rfl
@[simp] theorem State.setPending_unByte (as : List HostAction) : (s.setPending as).unByte = s.unByte := rfl
@[simp] theorem State.setPending_unConsumed (as : List HostAction) : (s.setPending as).unConsumed = s.unConsumed := rfl
@[simp] theorem State.setPending_frType (as : List HostAction) : (s.setPending as).frType = s.frType := rfl
@[simp] theorem State.setPending_frFlags (as : List HostAction) : (s.setPending as).frFlags = s.frFlags := rfl
@[simp] theorem State.setPending_frChk (as : List HostAction) : (s.setPending as).frChk = s.frChk := rfl
@[simp] theorem State.setPending_frPlen (as : List HostAction) : (s.setPending as).frPlen = s.frPlen := rfl
@[simp] theorem State.setPending_frPview (as : List HostAction) : (s.setPending as).frPview = s.frPview := rfl
@[simp] theorem State.setPending_argView (as : List HostAction) : (s.setPending as).argView = s.argView := rfl
@[simp] theorem State.setPending_argN (as : List HostAction) : (s.setPending as).argN = s.argN := rfl
@[simp] theorem State.setPending_dstCtl (as : List HostAction) : (s.setPending as).dstCtl = s.dstCtl := rfl
@[simp] theorem State.setPending_dstCap (as : List HostAction) : (s.setPending as).dstCap = s.dstCap := rfl
@[simp] theorem State.setPending_written (as : List HostAction) : (s.setPending as).written = s.written := rfl
@[simp] theorem State.setPending_srcCtl (as : List HostAction) : (s.setPending as).srcCtl = s.srcCtl := rfl
@[simp] theorem State.setPending_srcLen (as : List HostAction) : (s.setPending as).srcLen = s.srcLen := rfl
@[simp] theorem State.setPending_scrCap (as : List HostAction) : (s.setPending as).scrCap = s.scrCap := rfl
@[simp] theorem State.setPending_pay (as : List HostAction) : (s.setPending as).pay = s.pay := rfl
@[simp] theorem State.setPending_scr (as : List HostAction) : (s.setPending as).scr = s.scr := rfl
@[simp] theorem State.setPending_dst (as : List HostAction) : (s.setPending as).dst = s.dst := rfl
@[simp] theorem State.setPending_src (as : List HostAction) : (s.setPending as).src = s.src := rfl
@[simp] theorem State.setPending_pending (as : List HostAction) : (s.setPending as).pending = as := rfl
@[simp] theorem State.setPending_mem (as : List HostAction) (sp : MemSpace) : (s.setPending as).mem sp = s.mem sp := by cases sp <;> rfl
@[simp] theorem State.setPending_memRead (as : List HostAction) (sp : MemSpace) (a : Nat) : (s.setPending as).memRead sp a = s.memRead sp a := by
  cases sp <;> rfl

/-! ### `setMem` -/

@[simp] theorem State.setMem_params (sp : MemSpace) (m : Memory) : (s.setMem sp m).params = s.params := by cases sp <;> rfl
@[simp] theorem State.setMem_status (sp : MemSpace) (m : Memory) : (s.setMem sp m).status = s.status := by cases sp <;> rfl
@[simp] theorem State.setMem_byteIn (sp : MemSpace) (m : Memory) : (s.setMem sp m).byteIn = s.byteIn := by cases sp <;> rfl
@[simp] theorem State.setMem_pred (sp : MemSpace) (m : Memory) : (s.setMem sp m).pred = s.pred := by cases sp <;> rfl
@[simp] theorem State.setMem_stOut0 (sp : MemSpace) (m : Memory) : (s.setMem sp m).stOut0 = s.stOut0 := by cases sp <;> rfl
@[simp] theorem State.setMem_stOut1 (sp : MemSpace) (m : Memory) : (s.setMem sp m).stOut1 = s.stOut1 := by cases sp <;> rfl
@[simp] theorem State.setMem_stN (sp : MemSpace) (m : Memory) : (s.setMem sp m).stN = s.stN := by cases sp <;> rfl
@[simp] theorem State.setMem_unW0 (sp : MemSpace) (m : Memory) : (s.setMem sp m).unW0 = s.unW0 := by cases sp <;> rfl
@[simp] theorem State.setMem_unW1 (sp : MemSpace) (m : Memory) : (s.setMem sp m).unW1 = s.unW1 := by cases sp <;> rfl
@[simp] theorem State.setMem_unByte (sp : MemSpace) (m : Memory) : (s.setMem sp m).unByte = s.unByte := by cases sp <;> rfl
@[simp] theorem State.setMem_unConsumed (sp : MemSpace) (m : Memory) : (s.setMem sp m).unConsumed = s.unConsumed := by cases sp <;> rfl
@[simp] theorem State.setMem_frType (sp : MemSpace) (m : Memory) : (s.setMem sp m).frType = s.frType := by cases sp <;> rfl
@[simp] theorem State.setMem_frFlags (sp : MemSpace) (m : Memory) : (s.setMem sp m).frFlags = s.frFlags := by cases sp <;> rfl
@[simp] theorem State.setMem_frChk (sp : MemSpace) (m : Memory) : (s.setMem sp m).frChk = s.frChk := by cases sp <;> rfl
@[simp] theorem State.setMem_frPlen (sp : MemSpace) (m : Memory) : (s.setMem sp m).frPlen = s.frPlen := by cases sp <;> rfl
@[simp] theorem State.setMem_frPview (sp : MemSpace) (m : Memory) : (s.setMem sp m).frPview = s.frPview := by cases sp <;> rfl
@[simp] theorem State.setMem_argView (sp : MemSpace) (m : Memory) : (s.setMem sp m).argView = s.argView := by cases sp <;> rfl
@[simp] theorem State.setMem_argN (sp : MemSpace) (m : Memory) : (s.setMem sp m).argN = s.argN := by cases sp <;> rfl
@[simp] theorem State.setMem_dstCtl (sp : MemSpace) (m : Memory) : (s.setMem sp m).dstCtl = s.dstCtl := by cases sp <;> rfl
@[simp] theorem State.setMem_dstCap (sp : MemSpace) (m : Memory) : (s.setMem sp m).dstCap = s.dstCap := by cases sp <;> rfl
@[simp] theorem State.setMem_written (sp : MemSpace) (m : Memory) : (s.setMem sp m).written = s.written := by cases sp <;> rfl
@[simp] theorem State.setMem_srcCtl (sp : MemSpace) (m : Memory) : (s.setMem sp m).srcCtl = s.srcCtl := by cases sp <;> rfl
@[simp] theorem State.setMem_srcLen (sp : MemSpace) (m : Memory) : (s.setMem sp m).srcLen = s.srcLen := by cases sp <;> rfl
@[simp] theorem State.setMem_scrCap (sp : MemSpace) (m : Memory) : (s.setMem sp m).scrCap = s.scrCap := by cases sp <;> rfl
@[simp] theorem State.setMem_pay (sp : MemSpace) (m : Memory) :
    (s.setMem sp m).pay = if sp = .pay then m else s.pay := by cases sp <;> rfl
@[simp] theorem State.setMem_scr (sp : MemSpace) (m : Memory) :
    (s.setMem sp m).scr = if sp = .scr then m else s.scr := by cases sp <;> rfl
@[simp] theorem State.setMem_dst (sp : MemSpace) (m : Memory) :
    (s.setMem sp m).dst = if sp = .dst then m else s.dst := by cases sp <;> rfl
@[simp] theorem State.setMem_src (sp : MemSpace) (m : Memory) :
    (s.setMem sp m).src = if sp = .src then m else s.src := by cases sp <;> rfl
@[simp] theorem State.setMem_pending (sp : MemSpace) (m : Memory) : (s.setMem sp m).pending = s.pending := by cases sp <;> rfl

theorem State.setMem_mem (sp sp' : MemSpace) (m : Memory) :
    (s.setMem sp m).mem sp' = if sp' = sp then m else s.mem sp' := by
  cases sp <;> cases sp' <;> rfl

@[simp] theorem State.setMem_mem_same (sp : MemSpace) (m : Memory) : (s.setMem sp m).mem sp = m := by
  cases sp <;> rfl

theorem State.setMem_mem_other {sp sp' : MemSpace} (h : sp' ≠ sp) (m : Memory) :
    (s.setMem sp m).mem sp' = s.mem sp' := by
  rw [State.setMem_mem, if_neg h]

theorem State.setMem_memRead_other {sp sp' : MemSpace} (h : sp' ≠ sp) (m : Memory) (a : Nat) :
    (s.setMem sp m).memRead sp' a = s.memRead sp' a := by
  simp [State.memRead, State.setMem_mem_other s h]

/-! ### Host numbers and register writes -/

theorem State.countOf_lt (v : Nat) : s.countOf v < 2 ^ s.params.cw := Nat.mod_lt _ (Nat.two_pow_pos _)
theorem State.countOf_of_lt {v : Nat} (h : v < 2 ^ s.params.cw) : s.countOf v = v := Nat.mod_eq_of_lt h
theorem State.hostAddr_lt (a : Nat) : s.hostAddr a < 2 ^ s.params.aw := Nat.mod_lt _ (Nat.two_pow_pos _)
theorem State.hostAddr_of_lt {a : Nat} (h : a < 2 ^ s.params.aw) : s.hostAddr a = a := Nat.mod_eq_of_lt h

@[simp] theorem State.writeReg_params (r : Reg) (v : Nat) : (s.writeReg r v).params = s.params := by cases r <;> rfl
@[simp] theorem State.writeReg_status (r : Reg) (v : Nat) : (s.writeReg r v).status = s.status := by cases r <;> rfl
@[simp] theorem State.writeReg_written (r : Reg) (v : Nat) : (s.writeReg r v).written = s.written := by cases r <;> rfl
@[simp] theorem State.writeReg_pending (r : Reg) (v : Nat) : (s.writeReg r v).pending = s.pending := by cases r <;> rfl
@[simp] theorem State.writeReg_mem (r : Reg) (v : Nat) (sp : MemSpace) : (s.writeReg r v).mem sp = s.mem sp := by
  cases r <;> cases sp <;> rfl

/-- A read depends on the memory of its space alone. -/
theorem State.memRead_congr {s t : State} {sp : MemSpace} (h : s.mem sp = t.mem sp) (a : Nat) :
    s.memRead sp a = t.memRead sp a := by
  simp [State.memRead, h]

end Sys2Proof.Machine
end

