-- ==== Sys2Proof/Laws/Memory.lean ====
section
/-! SUPPORT. Reads after writes, and the canonical form, for one memory and for the four memories of a state. -/

namespace Sys2Proof.Machine

/-! ### One memory -/

theorem Memory.lookup_write_same (m : Memory) (a : Nat) (v : Byte) : (Memory.write m a v).lookup a = some v := by
  induction m with
  | nil => simp [Memory.write, Memory.lookup]
  | cons c rest ih =>
    obtain ⟨k, w⟩ := c
    simp only [Memory.write]
    split
    · simp [Memory.lookup]
    · split
      · simp [Memory.lookup]
      · rename_i h1 h2
        simp [Memory.lookup, Ne.symm h2, ih]

theorem Memory.lookup_write_other (m : Memory) {a b : Nat} (h : b ≠ a) (v : Byte) :
    (Memory.write m a v).lookup b = m.lookup b := by
  induction m with
  | nil => simp [Memory.write, Memory.lookup, Ne.symm h]
  | cons c rest ih =>
    obtain ⟨k, w⟩ := c
    simp only [Memory.write]
    split
    · simp [Memory.lookup, Ne.symm h]
    · split
      · rename_i h1 h2
        subst h2
        simp [Memory.lookup, Ne.symm h]
      · simp [Memory.lookup, ih]

theorem Memory.lookup_write (m : Memory) (a b : Nat) (v : Byte) :
    (Memory.write m a v).lookup b = if b = a then some v else m.lookup b := by
  split
  · rename_i h; subst h; exact Memory.lookup_write_same m b v
  · rename_i h; exact Memory.lookup_write_other m h v

/-- Reading after a write of several bytes: the byte written there, or what was there before. -/
theorem Memory.lookup_writeBytes (m : Memory) (a b : Nat) (bs : List Byte) :
    (Memory.writeBytes m a bs).lookup b = if a ≤ b ∧ b < a + bs.length then bs[b - a]? else m.lookup b := by
  induction bs generalizing m a with
  | nil => simp [Memory.writeBytes]
  | cons c rest ih =>
    rw [Memory.writeBytes, ih, Memory.lookup_write]
    by_cases hb : b = a
    · subst hb; simp
    · by_cases h : a + 1 ≤ b ∧ b < a + 1 + rest.length
      · have h' : a ≤ b ∧ b < a + (c :: rest).length := by simp only [List.length_cons]; omega
        have e : b - a = b - (a + 1) + 1 := by omega
        rw [if_pos h, if_pos h', e, List.getElem?_cons_succ]
      · have h' : ¬(a ≤ b ∧ b < a + (c :: rest).length) := by simp only [List.length_cons]; omega
        rw [if_neg h, if_neg h', if_neg hb]

theorem Memory.wfFrom_mono {aw lo lo' : Nat} {m : Memory} (h : lo' ≤ lo) (hm : Memory.wfFrom aw lo m = true) :
    Memory.wfFrom aw lo' m = true := by
  cases m with
  | nil => rfl
  | cons c rest =>
    simp only [Memory.wfFrom, Bool.and_eq_true, decide_eq_true_eq] at hm ⊢
    exact ⟨⟨by omega, hm.1.2⟩, hm.2⟩

theorem Memory.wfFrom_write {aw lo a : Nat} {m : Memory} (v : Byte) (hlo : lo ≤ a) (ha : a < 2 ^ aw)
    (hm : Memory.wfFrom aw lo m = true) : Memory.wfFrom aw lo (Memory.write m a v) = true := by
  induction m generalizing lo with
  | nil => simp [Memory.write, Memory.wfFrom, hlo, ha]
  | cons c rest ih =>
    obtain ⟨k, w⟩ := c
    simp only [Memory.wfFrom, Bool.and_eq_true, decide_eq_true_eq] at hm
    obtain ⟨⟨h1, h2⟩, h3⟩ := hm
    simp only [Memory.write]
    split
    · simp only [Memory.wfFrom, Bool.and_eq_true, decide_eq_true_eq]
      exact ⟨⟨hlo, ha⟩, ⟨by omega, h2⟩, h3⟩
    · split
      · subst_vars
        simp only [Memory.wfFrom, Bool.and_eq_true, decide_eq_true_eq]
        exact ⟨⟨hlo, ha⟩, h3⟩
      · simp only [Memory.wfFrom, Bool.and_eq_true, decide_eq_true_eq]
        exact ⟨⟨h1, h2⟩, ih (by omega) h3⟩

/-- A write inside the space keeps the canonical form. -/
theorem Memory.wf_write {m : Memory} {aw a : Nat} (v : Byte) (ha : a < 2 ^ aw) (hm : Memory.wf aw m = true) :
    Memory.wf aw (Memory.write m a v) = true :=
  Memory.wfFrom_write v (Nat.zero_le a) ha hm

/-- A write of several bytes inside the space keeps the canonical form. -/
theorem Memory.wf_writeBytes {m : Memory} {aw a : Nat} {bs : List Byte} (ha : a + bs.length ≤ 2 ^ aw)
    (hm : Memory.wf aw m = true) : Memory.wf aw (Memory.writeBytes m a bs) = true := by
  induction bs generalizing m a with
  | nil => exact hm
  | cons c rest ih =>
    simp only [List.length_cons] at ha
    exact ih (by omega) (Memory.wf_write c (by omega) hm)

/-! ### The memories of a state -/

theorem State.memRead_setMem_same (s : State) (sp : MemSpace) (m : Memory) (a : Nat) :
    (s.setMem sp m).memRead sp a = (m.lookup a).getD (Config.powerOnByte sp a) := by
  simp [State.memRead]

/-- Reading after a one-byte write. -/
theorem State.memRead_memWrite (s : State) (sp sp' : MemSpace) (a a' : Nat) (v : Byte) :
    (s.memWrite sp a v).memRead sp' a' = if sp' = sp ∧ a' = a then v else s.memRead sp' a' := by
  by_cases h : sp' = sp
  · subst h
    simp only [State.memWrite, State.memRead, State.setMem_mem_same, Memory.lookup_write, true_and]
    split <;> simp
  · rw [State.memWrite, State.setMem_memRead_other s h, if_neg (fun hh => h hh.1)]

/-- Reading after bytes were written from address 0: the byte written there, or what was there before. -/
theorem State.memRead_writeBytes (s : State) (sp : MemSpace) (bs : List Byte) (a : Nat) :
    (s.setMem sp ((s.mem sp).writeBytes 0 bs)).memRead sp a = (bs[a]?).getD (s.memRead sp a) := by
  rw [State.memRead_setMem_same, Memory.lookup_writeBytes]
  by_cases h : a < bs.length
  · simp [h]
  · rw [if_neg (by omega), List.getElem?_eq_none (by omega)]
    rfl

end Sys2Proof.Machine
end

