-- ==== Sys2Proof/Laws/Wire.lean ====
section
/-! SUPPORT. The pure functions of the codec: lengths, bounds, and what one wire unit is. -/

namespace Sys2Proof.Machine

theorem isEsc_iff (p : Params) (b : Byte) : isEsc p b = true ↔ b = p.esc := by simp [isEsc]

theorem isRsv_iff (p : Params) (b : Byte) : isRsv p b = true ↔ b = p.esc ∨ b = p.stx ∨ b = p.etx := by
  simp [isRsv, isEsc, isStx, isEtx, or_assoc]

theorem ne_esc_of_not_isRsv {p : Params} {b : Byte} (h : isRsv p b = false) : b ≠ p.esc := by
  intro hb
  have := (isRsv_iff p b).2 (Or.inl hb)
  simp [h] at this

/-- `stuff` gives one of two shapes. -/
theorem stuff_cases (p : Params) (b : Byte) :
    (isRsv p b = true ∧ stuff p b = [p.esc, b] ∧ stuffLen p b = 2)
      ∨ (isRsv p b = false ∧ stuff p b = [b] ∧ stuffLen p b = 1) := by
  cases h : isRsv p b
  · exact Or.inr ⟨rfl, by simp [stuff, h], by simp [stuffLen, h]⟩
  · exact Or.inl ⟨rfl, by simp [stuff, h], by simp [stuffLen, h]⟩

@[simp] theorem length_stuff (p : Params) (b : Byte) : (stuff p b).length = stuffLen p b := by
  obtain ⟨-, h, h'⟩ | ⟨-, h, h'⟩ := stuff_cases p b <;> simp [h, h']

theorem stuffLen_pos (p : Params) (b : Byte) : 1 ≤ stuffLen p b := by
  obtain ⟨-, -, h⟩ | ⟨-, -, h⟩ := stuff_cases p b <;> omega

theorem stuffLen_le (p : Params) (b : Byte) : stuffLen p b ≤ 2 := by
  obtain ⟨-, -, h⟩ | ⟨-, -, h⟩ := stuff_cases p b <;> omega

@[simp] theorem stuffAll_nil (p : Params) : stuffAll p [] = [] := rfl

@[simp] theorem stuffAll_cons (p : Params) (b : Byte) (bs : List Byte) :
    stuffAll p (b :: bs) = stuff p b ++ stuffAll p bs := by simp [stuffAll]

@[simp] theorem wireLen_nil (p : Params) : wireLen p [] = 0 := rfl

@[simp] theorem wireLen_cons (p : Params) (b : Byte) (bs : List Byte) :
    wireLen p (b :: bs) = stuffLen p b + wireLen p bs := by simp [wireLen]

@[simp] theorem length_stuffAll (p : Params) (bs : List Byte) : (stuffAll p bs).length = wireLen p bs := by
  induction bs with
  | nil => rfl
  | cons b bs ih => simp [ih]

/-- `wlen = n + R` (30_encoding.md R75). -/
theorem wireLen_eq (p : Params) (bs : List Byte) : wireLen p bs = bs.length + (bs.filter (isRsv p)).length := by
  induction bs with
  | nil => rfl
  | cons b bs ih =>
    obtain ⟨h, -, h'⟩ | ⟨h, -, h'⟩ := stuff_cases p b <;> simp [ih, h, h'] <;> omega

/-- `total = 5 + stufflen(type) + stufflen(flags) + ... `: the length of a frame. -/
theorem length_wireFrame (p : Params) (t f c : Byte) (q : List Byte) :
    (wireFrame p t f c q).length
      = 4 + stuffLen p t + stuffLen p f + wireLen p q + stuffLen p (transmittedChecksum p f c) := by
  simp [wireFrame]; omega

/-- A frame whose length field fits has 7 to 265 bytes (30_encoding.md R75). -/
theorem length_wireFrame_bounds (p : Params) (t f c : Byte) {q : List Byte} (h : wireLen p q ≤ 255) :
    7 ≤ (wireFrame p t f c q).length ∧ (wireFrame p t f c q).length ≤ 265 := by
  have := stuffLen_pos p t
  have := stuffLen_pos p f
  have := stuffLen_pos p (transmittedChecksum p f c)
  have := stuffLen_le p t
  have := stuffLen_le p f
  have := stuffLen_le p (transmittedChecksum p f c)
  rw [length_wireFrame]
  omega

/-- What `stuff` produces is a wire unit that carries the byte. -/
theorem wireUnit_stuff (p : Params) (b : Byte) : WireUnit p (stuff p b) b := by
  obtain ⟨-, h, -⟩ | ⟨hr, h, -⟩ := stuff_cases p b
  · exact Or.inr h
  · exact Or.inl ⟨h, ne_esc_of_not_isRsv hr⟩

theorem canonicalUnit_stuff (p : Params) (b : Byte) : CanonicalUnit p (stuff p b) := by
  obtain ⟨hr, h, -⟩ | ⟨hr, h, -⟩ := stuff_cases p b
  · exact Or.inr ⟨b, h, hr⟩
  · exact Or.inl ⟨b, h, hr⟩

theorem length_wireUnit {p : Params} {w : List Byte} {v : Byte} (h : WireUnit p w v) : w.length = 1 ∨ w.length = 2 := by
  obtain ⟨rfl, -⟩ | rfl := h
  · exact Or.inl rfl
  · exact Or.inr rfl

/-- Parsing takes a wire unit off the front whole. -/
theorem wireUnits_append {p : Params} {w : List Byte} {v : Byte} (h : WireUnit p w v) (bs : List Byte) :
    wireUnits p (w ++ bs) = w :: wireUnits p bs := by
  obtain ⟨rfl, hv⟩ | rfl := h
  · show wireUnits p (v :: bs) = _
    rw [wireUnits.eq_def]
    simp [hv]
  · simp [wireUnits]

end Sys2Proof.Machine
end

