-- ==== Sys2Proof/Laws/Codec.lean ====
section
/-! SUPPORT. What the tests of ENCODE and the parse of DECODE answer, said once. -/

namespace Sys2Proof.Machine

/-! ### Tests -/

@[simp] theorem require_true (e : ErrorKind) : require true e = .ok () := rfl
@[simp] theorem require_false (e : ErrorKind) : require false e = .error e := rfl
@[simp] theorem ok_bind {α β : Type} (a : α) (f : α → Except ErrorKind β) : (Except.ok a >>= f) = f a := rfl
@[simp] theorem error_bind {α β : Type} (e : ErrorKind) (f : α → Except ErrorKind β) :
    (Except.error e >>= f) = .error e := rfl

theorem require_eq_ok {b : Bool} {e : ErrorKind} {u : Unit} : require b e = .ok u ↔ b = true := by
  cases b <;> simp

theorem require_eq_error {b : Bool} {e d : ErrorKind} : require b e = .error d ↔ b = false ∧ e = d := by
  cases b <;> simp

/-- A sequence succeeds where both parts do. -/
theorem bind_eq_ok {α β : Type} {x : Except ErrorKind α} {f : α → Except ErrorKind β} {r : β} :
    (x >>= f) = .ok r ↔ ∃ a, x = .ok a ∧ f a = .ok r := by
  cases x <;> simp

/-- A sequence fails in its first part or in its second. -/
theorem bind_eq_error {α β : Type} {x : Except ErrorKind α} {f : α → Except ErrorKind β} {d : ErrorKind} :
    (x >>= f) = .error d ↔ x = .error d ∨ ∃ a, x = .ok a ∧ f a = .error d := by
  cases x <;> simp

/-! ### ENCODE -/

/-- The handle test of `ENCODE` (42_encode.md R111). -/
def State.encodeHandles (s : State) : Bool := present s.dstCtl && (s.frPlen == 0x00#8 || viewValid s.frPview)

/-- The four answers of `ENCODE`'s tests, in their order (42_encode.md R118). -/
theorem State.frameToEmit_eq (s : State) :
    s.frameToEmit =
      if s.encodeHandles = false then .error .invalidHandle
      else if 255 < wireLen s.params s.payload then .error .lengthOverflow
      else if s.dstCap < (wireFrame s.params s.frType s.frFlags s.frChk s.payload).length then
        .error .bufferTooSmall
      else .ok (wireFrame s.params s.frType s.frFlags s.frChk s.payload) := by
  simp only [State.frameToEmit, State.encodeHandles]
  by_cases h1 : present s.dstCtl = true
  swap
  · simp [Bool.not_eq_true _ ▸ h1]
  by_cases h2 : (s.frPlen == 0x00#8 || viewValid s.frPview) = true
  swap
  · rw [Bool.not_eq_true] at h2
    simp only [h1, h2, require_true, require_false, ok_bind, error_bind, Bool.and_false, if_true]
  simp only [h1, h2, require_true, ok_bind, Bool.and_true, Bool.true_eq_false, if_false]
  by_cases h : wireLen s.params s.payload ≤ 255
  · rw [if_neg (by omega), decide_eq_true h, require_true, ok_bind]
    by_cases h' : (wireFrame s.params s.frType s.frFlags s.frChk s.payload).length ≤ s.dstCap
    · rw [if_neg (by omega), decide_eq_true h']; rfl
    · rw [if_pos (by omega), decide_eq_false h']; rfl
  · rw [if_pos (by omega), decide_eq_false h]; rfl

/-- What a frame to emit says about the state. -/
theorem State.frameToEmit_ok {s : State} {fr : List Byte} (h : s.frameToEmit = .ok fr) :
    s.encodeHandles = true ∧ wireLen s.params s.payload ≤ 255
      ∧ fr = wireFrame s.params s.frType s.frFlags s.frChk s.payload ∧ fr.length ≤ s.dstCap
      ∧ 7 ≤ fr.length ∧ fr.length ≤ 265 := by
  rw [State.frameToEmit_eq] at h
  split at h
  · cases h
  · split at h
    · cases h
    · split at h
      · cases h
      · obtain rfl := Except.ok.inj h
        rename_i h1 h2 h3
        have hb := length_wireFrame_bounds s.params s.frType s.frFlags s.frChk (q := s.payload) (by omega)
        refine ⟨by simpa using h1, by omega, rfl, by omega, hb.1, hb.2⟩

theorem State.frameToEmit_error {s : State} {e : ErrorKind} (h : s.frameToEmit = .error e) :
    e = .invalidHandle ∨ e = .lengthOverflow ∨ e = .bufferTooSmall := by
  rw [State.frameToEmit_eq] at h
  split at h
  · cases h; simp
  · split at h
    · cases h; simp
    · split at h <;> cases h
      simp

@[simp] theorem State.length_payload (s : State) : s.payload.length = s.frPlen.toNat := by simp [State.payload]

theorem State.payload_getElem? (s : State) (i : Nat) :
    s.payload[i]? = if i < s.frPlen.toNat then some (s.memRead (viewSpace s.frPview) i) else none := by
  by_cases h : i < s.frPlen.toNat <;> simp [State.payload, h]

theorem State.emitFrame_memRead_dst (s : State) (fr : List Byte) (a : Nat) :
    (s.emitFrame fr).memRead .dst a = (fr[a]?).getD (s.memRead .dst a) := by
  simp [State.emitFrame, State.memRead_writeBytes]

/-- What emitting a frame changes: `DST`, `WRITTEN`, `STATUS`. -/
theorem State.emitFrame_eq (s : State) (fr : List Byte) :
    s.emitFrame fr
      = { s with dst := s.dst.writeBytes 0 fr, written := fr.length, status := 0x00#8 } := rfl

/-! ### DECODE -/

/-- The unit at a cursor, and the readable bytes it stands on. -/
theorem unitAt_eq_some {p : Params} {rd : Nat → Option Byte} {rp k : Nat} {v : Byte} :
    unitAt p rd rp = some (v, k) ↔
      (k = 1 ∧ rd rp = some v ∧ v ≠ p.esc) ∨ (k = 2 ∧ rd rp = some p.esc ∧ rd (rp + 1) = some v) := by
  unfold unitAt
  cases h : rd rp with
  | none => simp
  | some w0 =>
    by_cases he : w0 = p.esc
    · subst he
      cases h1 : rd (rp + 1) with
      | none => simp [isEsc]; rintro rfl; exact Eq.symm
      | some w1 =>
        simp only [isEsc, beq_self_eq_true, if_true, Option.map_some, Option.some.injEq, Prod.mk.injEq]
        constructor
        · rintro ⟨rfl, rfl⟩; exact Or.inr ⟨rfl, trivial, rfl⟩
        · rintro (⟨-, rfl, h⟩ | ⟨rfl, -, rfl⟩)
          · exact absurd rfl h
          · exact ⟨rfl, rfl⟩
    · simp only [isEsc, beq_iff_eq, he, if_false, Option.some.injEq, Prod.mk.injEq]
      constructor
      · rintro ⟨rfl, rfl⟩; exact Or.inl ⟨rfl, rfl, he⟩
      · rintro (⟨rfl, rfl, -⟩ | ⟨-, h, -⟩)
        · exact ⟨rfl, rfl⟩
        · exact h.elim

theorem unitAt_consumed {p : Params} {rd : Nat → Option Byte} {rp k : Nat} {v : Byte}
    (h : unitAt p rd rp = some (v, k)) : k = 1 ∨ k = 2 := by
  rcases unitAt_eq_some.1 h with ⟨h, -⟩ | ⟨h, -⟩ <;> simp [h]

/-- A cursor that only reads readable bytes reads the same of two readers that agree on them. -/
theorem takeField_eq_ok {p : Params} {rd : Nat → Option Byte} {rp rp' : Nat} {v : Byte} :
    takeField p rd rp = .ok (v, rp') ↔ ∃ k, unitAt p rd rp = some (v, k) ∧ rp' = rp + k := by
  unfold takeField
  cases h : unitAt p rd rp with
  | none => simp
  | some u =>
    obtain ⟨w, k⟩ := u
    simp only [Except.ok.injEq, Prod.mk.injEq, Option.some.injEq]
    constructor
    · rintro ⟨rfl, rfl⟩; exact ⟨k, ⟨rfl, rfl⟩, rfl⟩
    · rintro ⟨k, ⟨rfl, rfl⟩, rfl⟩; exact ⟨rfl, rfl⟩

theorem takeField_error {p : Params} {rd : Nat → Option Byte} {rp : Nat} {e : ErrorKind}
    (h : takeField p rd rp = .error e) : e = .endMissing := by
  unfold takeField at h
  split at h <;> cases h
  rfl

theorem collect_eq_ok {v : Byte} {r : Except ErrorKind (List Byte × Nat)} {q : List Byte} {rp : Nat} :
    collect v r = .ok (q, rp) ↔ ∃ q', r = .ok (q', rp) ∧ q = v :: q' := by
  unfold collect
  cases r with
  | error e => simp
  | ok x =>
    obtain ⟨a, b⟩ := x
    simp only [Except.ok.injEq, Prod.mk.injEq]
    constructor
    · rintro ⟨rfl, rfl⟩; exact ⟨a, ⟨rfl, rfl⟩, rfl⟩
    · rintro ⟨q', ⟨rfl, rfl⟩, rfl⟩; exact ⟨rfl, rfl⟩

theorem collect_error {v : Byte} {r : Except ErrorKind (List Byte × Nat)} {e : ErrorKind}
    (h : collect v r = .error e) : r = .error e := by
  unfold collect at h
  split at h
  · exact h
  · cases h

/-- The loop with a unit of one byte next. -/
theorem takePayload_one {p : Params} {rd : Nat → Option Byte} {rp left : Nat} {v : Byte}
    (h : unitAt p rd rp = some (v, 1)) :
    takePayload p rd (left + 1) rp = collect v (takePayload p rd left (rp + 1)) := by
  simp [takePayload, h]

/-- The loop with a unit of two bytes next and room for it. -/
theorem takePayload_two {p : Params} {rd : Nat → Option Byte} {rp left : Nat} {v : Byte}
    (h : unitAt p rd rp = some (v, 2)) :
    takePayload p rd (left + 2) rp = collect v (takePayload p rd left (rp + 2)) := by
  simp [takePayload, h]

/-- The loop with a unit of two bytes next and one byte of budget left: the unit straddles the budget. -/
theorem takePayload_straddle {p : Params} {rd : Nat → Option Byte} {rp : Nat} {v : Byte}
    (h : unitAt p rd rp = some (v, 2)) : takePayload p rd 1 rp = .error .endMissing := by
  simp [takePayload, h]

/-- The loop with no whole unit left to read. -/
theorem takePayload_none {p : Params} {rd : Nat → Option Byte} {rp left : Nat} (h : unitAt p rd rp = none) :
    takePayload p rd (left + 1) rp = .error .endMissing := by
  simp [takePayload, h]

/-- Every way the loop can go with a budget left. -/
theorem takePayload_succ_cases (p : Params) (rd : Nat → Option Byte) (left rp : Nat) :
    takePayload p rd (left + 1) rp = .error .endMissing
      ∨ (∃ v, unitAt p rd rp = some (v, 1)
          ∧ takePayload p rd (left + 1) rp = collect v (takePayload p rd left (rp + 1)))
      ∨ (∃ v left', left = left' + 1 ∧ unitAt p rd rp = some (v, 2)
          ∧ takePayload p rd (left + 1) rp = collect v (takePayload p rd left' (rp + 2))) := by
  cases h : unitAt p rd rp with
  | none => exact Or.inl (takePayload_none h)
  | some u =>
    obtain ⟨v, k⟩ := u
    rcases unitAt_consumed h with rfl | rfl
    · exact Or.inr (Or.inl ⟨v, rfl, takePayload_one h⟩)
    · cases left with
      | zero => exact Or.inl (takePayload_straddle h)
      | succ left' => exact Or.inr (Or.inr ⟨v, left', rfl, rfl, takePayload_two h⟩)

theorem takePayload_error {p : Params} {rd : Nat → Option Byte} {budget rp : Nat} {e : ErrorKind}
    (h : takePayload p rd budget rp = .error e) : e = .endMissing := by
  induction budget using Nat.strong_induction_on generalizing rp with
  | _ budget ih =>
    cases budget with
    | zero => cases h
    | succ left =>
      rcases takePayload_succ_cases p rd left rp with h1 | ⟨v, -, h1⟩ | ⟨v, left', rfl, -, h1⟩
      · rw [h1] at h; cases h; rfl
      · rw [h1] at h; exact ih left (by omega) (collect_error h)
      · rw [h1] at h; exact ih left' (by omega) (collect_error h)

/-- The logical length lies between half the budget and the budget (43_decode.md R135), and exactly the budget is
consumed. -/
theorem takePayload_ok {p : Params} {rd : Nat → Option Byte} {budget rp rp' : Nat} {q : List Byte}
    (h : takePayload p rd budget rp = .ok (q, rp')) :
    rp' = rp + budget ∧ q.length ≤ budget ∧ budget ≤ 2 * q.length := by
  induction budget using Nat.strong_induction_on generalizing rp q with
  | _ budget ih =>
    cases budget with
    | zero => cases h; exact ⟨rfl, Nat.le_refl _, Nat.le_refl _⟩
    | succ left =>
      rcases takePayload_succ_cases p rd left rp with h1 | ⟨v, -, h1⟩ | ⟨v, left', rfl, -, h1⟩
      · rw [h1] at h; cases h
      · rw [h1] at h
        obtain ⟨q', hq, rfl⟩ := collect_eq_ok.1 h
        obtain ⟨h2, h3, h4⟩ := ih left (by omega) hq
        simp only [List.length_cons]
        omega
      · rw [h1] at h
        obtain ⟨q', hq, rfl⟩ := collect_eq_ok.1 h
        obtain ⟨h2, h3, h4⟩ := ih left' (by omega) hq
        simp only [List.length_cons]
        omega

/-- A successful parse, step by step (43_decode.md R130). -/
theorem parseFrame_eq_ok {p : Params} {rd : Nat → Option Byte} {cap : Nat} {d : DecodedFrame} :
    parseFrame p rd cap = .ok d ↔
      ∃ r1 r2 r3 r4, rd 0 = some p.stx ∧ takeField p rd 1 = .ok (d.type, r1) ∧ takeField p rd r1 = .ok (d.flags, r2)
        ∧ takeField p rd r2 = .ok (d.cnt, r3) ∧ takePayload p rd d.cnt.toNat r3 = .ok (d.payload, r4)
        ∧ d.payload.length ≤ cap ∧ ∃ r5, takeField p rd r4 = .ok (d.chk, r5) ∧ rd r5 = some p.etx := by
  unfold parseFrame
  simp only [bind_eq_ok, require_eq_ok, beq_iff_eq, decide_eq_true_eq, Prod.exists, exists_const]
  constructor
  · rintro ⟨h0, t, r1, h1, f, r2, h2, cnt, r3, h3, q, r4, h4, h5, c, r5, h6, h7, h8⟩
    cases h8
    exact ⟨r1, r2, r3, r4, h0, h1, h2, h3, h4, h5, r5, h6, h7⟩
  · rintro ⟨r1, r2, r3, r4, h0, h1, h2, h3, h4, h5, r5, h6, h7⟩
    exact ⟨h0, _, r1, h1, _, r2, h2, _, r3, h3, _, r4, h4, h5, _, r5, h6, h7, rfl⟩

/-- A parse that starts at the start delimiter fails with `END_MISSING` or `BUFFER_TOO_SMALL` only. -/
theorem parseFrame_error {p : Params} {rd : Nat → Option Byte} {cap : Nat} {e : ErrorKind}
    (h : parseFrame p rd cap = .error e) :
    (rd 0 ≠ some p.stx ∧ e = .startMissing) ∨ (rd 0 = some p.stx ∧ (e = .endMissing ∨ e = .bufferTooSmall)) := by
  unfold parseFrame at h
  simp only [bind_eq_error, require_eq_error, require_eq_ok, beq_eq_false_iff_ne, beq_iff_eq, Prod.exists,
    exists_const] at h
  rcases h with ⟨h0, rfl⟩ | ⟨h0, h⟩
  · exact Or.inl ⟨h0, rfl⟩
  · refine Or.inr ⟨h0, ?_⟩
    rcases h with h | ⟨_, _, -, h | ⟨_, _, -, h | ⟨_, _, -, h | ⟨_, _, -, ⟨-, h⟩ | ⟨-, h | ⟨_, _, -, ⟨-, h⟩ | ⟨-, h⟩⟩⟩⟩⟩⟩⟩
    · exact Or.inl (takeField_error h)
    · exact Or.inl (takeField_error h)
    · exact Or.inl (takeField_error h)
    · exact Or.inl (takePayload_error h)
    · exact Or.inr h.symm
    · exact Or.inl (takeField_error h)
    · exact Or.inl h.symm
    · cases h

theorem State.frameInSource_eq_ok {s : State} {d : DecodedFrame} :
    s.frameInSource = .ok d ↔ present s.srcCtl = true ∧ parseFrame s.params s.srcByte s.scrCap = .ok d := by
  simp only [State.frameInSource, bind_eq_ok, require_eq_ok, exists_const]

/-- A committed frame's payload fits its registers. -/
theorem parseFrame_payload_length {p : Params} {rd : Nat → Option Byte} {cap : Nat} {d : DecodedFrame}
    (h : parseFrame p rd cap = .ok d) :
    d.payload.length ≤ cap ∧ d.payload.length ≤ 255 ∧ (d.payload = [] ↔ d.cnt = 0x00#8) := by
  obtain ⟨r1, r2, r3, r4, -, -, -, -, h4, h5, -⟩ := parseFrame_eq_ok.1 h
  obtain ⟨-, h6, h7⟩ := takePayload_ok h4
  have := d.cnt.isLt
  refine ⟨h5, by omega, ?_, ?_⟩
  · intro hq
    rw [hq] at h7
    apply BitVec.eq_of_toNat_eq
    simpa using h7
  · intro hc
    rw [hc] at h6
    exact List.length_eq_zero_iff.1 (by simpa using h6)

/-- What the commit changes (43_decode.md R139), whatever the count. -/
theorem State.commitFrame_eq {s : State} {d : DecodedFrame} (h : d.payload = [] ↔ d.cnt = 0x00#8) :
    s.commitFrame d =
      { s with
        frType := d.type, frFlags := d.flags, frChk := d.chk, frPlen := BitVec.ofNat 8 d.payload.length
        frPview := if d.cnt = 0x00#8 then 0#2 else 3#2, scr := s.scr.writeBytes 0 d.payload, status := 0x00#8 } := by
  unfold State.commitFrame
  by_cases hc : d.cnt = 0x00#8
  · simp only [hc, h.2 hc, ne_eq, not_true_eq_false, if_false, if_true]; rfl
  · simp only [hc, ne_eq, not_false_eq_true, if_true, if_false]; rfl

end Sys2Proof.Machine
end

