-- ==== Sys2Proof/Laws/Exec.lean ====
section
/-! SUPPORT. What each meaning, an action and a step can answer, said once: later proofs cite these instead of
unfolding a meaning. -/

namespace Sys2Proof.Machine

theorem errorCode_ne_zero (e : ErrorKind) : errorCode e ≠ 0x00#8 := by cases e <;> decide

theorem errorCode_toNat_le (e : ErrorKind) : (errorCode e).toNat ≤ 6 := by cases e <;> decide

/-! ### The meanings -/

theorem exec_isEsc (s : State) : exec .isEsc s = .next (s.classify isEsc) := rfl
theorem exec_isStx (s : State) : exec .isStx s = .next (s.classify isStx) := rfl
theorem exec_isEtx (s : State) : exec .isEtx s = .next (s.classify isEtx) := rfl
theorem exec_isRsv (s : State) : exec .isRsv s = .next (s.classify isRsv) := rfl

/-- What a classifier command changes: `PRED` and `STATUS`. -/
theorem State.classify_eq (s : State) (f : Params → Byte → Bool) :
    s.classify f = { s with pred := predBit (f s.params s.byteIn), status := 0x00#8 } := rfl

/-- The two answers of `STUFF`. -/
theorem exec_stuff_cases (s : State) :
    (isRsv s.params s.byteIn = true ∧ exec .stuff s = .next ((s.setStuffed s.params.esc s.byteIn 2#2).setStatus 0x00#8))
      ∨ (isRsv s.params s.byteIn = false ∧ exec .stuff s = .next ((s.setStuffed s.byteIn 0x00#8 1#2).setStatus 0x00#8)) := by
  cases h : isRsv s.params s.byteIn
  · exact Or.inr ⟨rfl, by simp [exec, execStuff, h]⟩
  · exact Or.inl ⟨rfl, by simp [exec, execStuff, h]⟩

/-- The two answers of `UNSTUFF`. -/
theorem exec_unstuff_cases (s : State) :
    (s.unW0 = s.params.esc ∧ exec .unstuff s = .next ((s.setUnstuffed s.unW1 2#2).setStatus 0x00#8))
      ∨ (s.unW0 ≠ s.params.esc ∧ exec .unstuff s = .next ((s.setUnstuffed s.unW0 1#2).setStatus 0x00#8)) := by
  by_cases h : s.unW0 = s.params.esc
  · exact Or.inl ⟨h, by simp [exec, execUnstuff, unstuff, isEsc, h]⟩
  · exact Or.inr ⟨h, by simp [exec, execUnstuff, unstuff, isEsc, h]⟩

/-- `ENCODE` reports the first failing test, or emits the frame. -/
theorem exec_encode_cases (s : State) :
    (∃ e, s.frameToEmit = .error e ∧ exec .encode s = .next (s.setStatus (errorCode e)))
      ∨ ∃ fr, s.frameToEmit = .ok fr ∧ exec .encode s = .next (s.emitFrame fr) := by
  cases h : s.frameToEmit with
  | error e => exact Or.inl ⟨e, rfl, by simp [exec, execEncode, h]⟩
  | ok fr => exact Or.inr ⟨fr, rfl, by simp [exec, execEncode, h]⟩

theorem exec_encode_of_ok {s : State} {fr : List Byte} (h : s.frameToEmit = .ok fr) :
    exec .encode s = .next (s.emitFrame fr) := by simp [exec, execEncode, h]

theorem exec_encode_of_error {s : State} {e : ErrorKind} (h : s.frameToEmit = .error e) :
    exec .encode s = .next (s.setStatus (errorCode e)) := by simp [exec, execEncode, h]

/-- `DECODE` reports the first failing test, or commits the frame. -/
theorem exec_decode_cases (s : State) :
    (∃ e, s.frameInSource = .error e ∧ exec .decode s = .next (s.setStatus (errorCode e)))
      ∨ ∃ d, s.frameInSource = .ok d ∧ exec .decode s = .next (s.commitFrame d) := by
  cases h : s.frameInSource with
  | error e => exact Or.inl ⟨e, rfl, by simp [exec, execDecode, h]⟩
  | ok d => exact Or.inr ⟨d, rfl, by simp [exec, execDecode, h]⟩

theorem exec_decode_of_ok {s : State} {d : DecodedFrame} (h : s.frameInSource = .ok d) :
    exec .decode s = .next (s.commitFrame d) := by simp [exec, execDecode, h]

theorem exec_decode_of_error {s : State} {e : ErrorKind} (h : s.frameInSource = .error e) :
    exec .decode s = .next (s.setStatus (errorCode e)) := by simp [exec, execDecode, h]

/-- A successful `DECODE` leaves the decoded frame in the Frame registers and in `SCR`, `OK` in `STATUS`, and the rest
as it was. -/
theorem exec_decode_ok {s : State} {d : DecodedFrame} (h : s.frameInSource = .ok d) :
    exec .decode s = .next
      { s with
        frType := d.type, frFlags := d.flags, frChk := d.chk, frPlen := BitVec.ofNat 8 d.payload.length
        frPview := if d.cnt = 0x00#8 then 0#2 else 3#2, scr := s.scr.writeBytes 0 d.payload, status := 0x00#8 } := by
  obtain ⟨-, -, h3⟩ := parseFrame_payload_length (State.frameInSource_eq_ok.1 h).2
  rw [exec_decode_of_ok h, State.commitFrame_eq h3]

theorem exec_emptyFrame (s : State) :
    exec .emptyFrame s
      = .next (((s.setHeader s.params.typeNone 0x00#8 0x00#8).setPayload 0x00#8 0#2).setStatus 0x00#8) := rfl

/-- The three answers of `ATTACH_PAYLOAD`. -/
theorem exec_attachPayload_cases (s : State) :
    (viewValid s.argView = false ∧ exec .attachPayload s = .next (s.setStatus 0x01#8))
      ∨ (viewValid s.argView = true ∧ s.argN = 0x00#8 ∧ exec .attachPayload s = .next (s.setStatus 0x02#8))
      ∨ (viewValid s.argView = true ∧ s.argN ≠ 0x00#8
          ∧ exec .attachPayload s = .next ((s.setPayload s.argN (boundView s.argView)).setStatus 0x00#8)) := by
  cases h : viewValid s.argView
  · exact Or.inl ⟨rfl, by simp [exec, execAttachPayload, h, errorCode]⟩
  · by_cases hn : s.argN = 0x00#8
    · exact Or.inr (Or.inl ⟨rfl, hn, by simp [exec, execAttachPayload, h, hn, errorCode]⟩)
    · exact Or.inr (Or.inr ⟨rfl, hn, by simp [exec, execAttachPayload, h, hn]⟩)

/-- Every command answers a next state: what it is, is said by the lemma of its meaning. -/
theorem exec_answers (i : Instr) (s : State) : ∃ t, exec i s = .next t := by
  cases i with
  | isEsc => exact ⟨_, rfl⟩
  | isStx => exact ⟨_, rfl⟩
  | isEtx => exact ⟨_, rfl⟩
  | isRsv => exact ⟨_, rfl⟩
  | stuff => rcases exec_stuff_cases s with ⟨-, h⟩ | ⟨-, h⟩ <;> exact ⟨_, h⟩
  | unstuff => exact ⟨_, rfl⟩
  | encode => rcases exec_encode_cases s with ⟨_, -, h⟩ | ⟨_, -, h⟩ <;> exact ⟨_, h⟩
  | decode => rcases exec_decode_cases s with ⟨_, -, h⟩ | ⟨_, -, h⟩ <;> exact ⟨_, h⟩
  | emptyFrame => exact ⟨_, rfl⟩
  | attachPayload => rcases exec_attachPayload_cases s with ⟨-, h⟩ | ⟨-, -, h⟩ | ⟨-, -, h⟩ <;> exact ⟨_, h⟩

/-! ### Actions and steps -/

theorem step_of_pending {s : State} {a : HostAction} {rest : List HostAction} (h : s.pending = a :: rest) :
    step s = act a (s.setPending rest) := by simp [step, State.nextAction, h]

theorem step_of_no_pending {s : State} (h : s.pending = []) : step s = .next s := by
  simp [step, State.nextAction, h]

/-- The three kinds of action: a command, an illegal code, and everything else. -/
theorem act_cases (a : HostAction) (s : State) :
    (∃ c i, commandCode a = some c ∧ decode c = .ok i ∧ act a s = exec i s)
      ∨ (∃ c e, commandCode a = some c ∧ decode c = .error e ∧ act a s = .next (s.setStatus 0x06#8))
      ∨ (commandCode a = none ∧ act a s = .next (s.hostEffect a)) := by
  unfold act
  cases h : commandCode a with
  | none => exact Or.inr (Or.inr ⟨rfl, rfl⟩)
  | some c =>
    cases hd : decode c with
    | error e => exact Or.inr (Or.inl ⟨c, e, rfl, hd, by simp [hd]⟩)
    | ok i => exact Or.inl ⟨c, i, rfl, hd, by simp [hd]⟩

/-- A code issued by the host is the code the action writes. -/
@[simp] theorem commandCode_issue (c : Byte) : commandCode (issue c) = some c := by
  simp [commandCode, issue]

theorem act_answers (a : HostAction) (s : State) : ∃ t, act a s = .next t := by
  rcases act_cases a s with ⟨_, i, -, -, h⟩ | ⟨_, _, -, -, h⟩ | ⟨-, h⟩
  · obtain ⟨t, ht⟩ := exec_answers i s
    exact ⟨t, h.trans ht⟩
  · exact ⟨_, h⟩
  · exact ⟨_, h⟩

/-- A step: nothing left to do, or the next action taken from the list. -/
theorem step_cases (s : State) :
    (s.pending = [] ∧ step s = .next s)
      ∨ ∃ a rest, s.pending = a :: rest ∧ step s = act a (s.setPending rest) := by
  cases h : s.pending with
  | nil => exact Or.inl ⟨rfl, step_of_no_pending h⟩
  | cons a rest => exact Or.inr ⟨a, rest, rfl, step_of_pending h⟩

end Sys2Proof.Machine
end

