-- ==== Sys2Proof/Laws/PerInstr.lean ====
section
/-! SUPPORT. Facts about the syntax of every command, one lemma per constructor. -/

namespace Sys2Proof.Laws.Grouped

/-- The family of a command: "0 classifier, 1 stuffer, 2 codec, 3 frame helpers" (30_encoding.md R61). -/
def family (i : Instr) : Byte :=
  match i with
  | .isEsc => 0x0#8
  | .isStx => 0x0#8
  | .isEtx => 0x0#8
  | .isRsv => 0x0#8
  | .stuff => 0x1#8
  | .unstuff => 0x1#8
  | .encode => 0x2#8
  | .decode => 0x2#8
  | .emptyFrame => 0x3#8
  | .attachPayload => 0x3#8

/-- "The codes are grouped by the high nibble" (30_encoding.md R61), and no code is 0. -/
def Statement (i : Instr) : Prop := encode i >>> 4 = family i ∧ encode i ≠ 0x00#8

theorem isEsc : Statement .isEsc := by unfold Statement; decide
theorem isStx : Statement .isStx := by unfold Statement; decide
theorem isEtx : Statement .isEtx := by unfold Statement; decide
theorem isRsv : Statement .isRsv := by unfold Statement; decide
theorem stuff : Statement .stuff := by unfold Statement; decide
theorem unstuff : Statement .unstuff := by unfold Statement; decide
theorem encode : Statement .encode := by unfold Statement; decide
theorem decode : Statement .decode := by unfold Statement; decide
theorem emptyFrame : Statement .emptyFrame := by unfold Statement; decide
theorem attachPayload : Statement .attachPayload := by unfold Statement; decide

end Sys2Proof.Laws.Grouped
end

