-- ==== Sys2Proof/Tests/Slice0.lean ====
section
/-! SUPPORT. The model's own tests and the witnesses of its statements. Expected results come from the spec: the code
table of 30_encoding.md R61 and the vectors of 95_test_vectors.md, named at each test. -/

namespace Sys2Proof.Tests

open Sys2Proof Sys2Proof.Machine

/-! ### Builders of small states -/

/-- These bytes at addresses 0, 1, ... -/
def cells (bs : List Byte) : Memory := bs.zipIdx.map fun c => (c.2, c.1)

/-- The state an outcome leads to. -/
def after (o : Host.Outcome State Fault Refusal) : State :=
  match o with
  | .next t => t
  | .fault _ => State.reset
  | .refused _ => State.reset

/-- An outcome that is a next state. -/
def completes (o : Host.Outcome State Fault Refusal) : Bool :=
  match o with
  | .next _ => true
  | .fault _ => false
  | .refused _ => false

theorem next_after {o : Host.Outcome State Fault Refusal} (h : completes o = true) : o = .next (after o) := by
  cases o with
  | next t => rfl
  | fault r => cases r
  | refused r => cases h

/-- The first `n` bytes of a memory. -/
def shown (s : State) (sp : MemSpace) (n : Nat) : List Byte := (List.range n).map (s.memRead sp)

/-- A framer about to encode this Frame into a destination buffer of this capacity. -/
def toEncode (t f c : Byte) (payload : List Byte) (cap : Nat) : State :=
  { State.reset with
    frType := t, frFlags := f, frChk := c, frPlen := BitVec.ofNat 8 payload.length
    frPview := if payload = [] then 0#2 else 1#2
    pay := cells payload, dstCtl := 1#1, dstCap := cap }

/-- A framer about to decode these source bytes with this scratch capacity. -/
def toDecode (bs : List Byte) (cap : Nat) : State :=
  { State.reset with
    frType := 0x77#8, frChk := 0x66#8, src := cells bs, srcCtl := 1#1, srcLen := bs.length, scrCap := cap }

/-- A framer whose host asks for this action next. -/
def asked (a : HostAction) : State := State.reset.setPending [a]

/-- What a decoder refuses with. -/
def refusal (r : Except DecodeError Instr) : Option DecodeError :=
  match r with
  | .ok _ => none
  | .error e => some e

/-- The payload of vectors E4 and DV2. -/
def reserved3 : List Byte := [0x02#8, 0x03#8, 0x25#8]

/-- The wire frame of vectors E4 and DV2. -/
def wireE4 : List Byte :=
  [0x02#8, 0x10#8, 0x00#8, 0x25#8, 0x06#8, 0x25#8, 0x02#8, 0x25#8, 0x03#8, 0x25#8, 0x25#8, 0x55#8, 0x03#8]

/-- The Frame of vector E4. -/
def frameE4 : State := toEncode 0x10#8 0x00#8 0x55#8 reserved3 0x0200

/-- The Frame of vector E3 (flags `IGNCHK`, checksum `AB`). -/
def frameE3 : State := toEncode 0x01#8 0x02#8 0xAB#8 [] 0x0200

/-- 128 reserved bytes, as in vector E15. -/
def escapes128 : List Byte := List.replicate 128 0x25#8

/-! ### Well-formedness: one ill-formed instance for each check (00_scope.md R4) -/

theorem test_default_params_valid : Params.default.Valid := by decide
theorem test_stx_eq_etx_refused : ¬({ Params.default with etx := 0x02#8 } : Params).Valid := by decide
theorem test_stx_eq_esc_refused : ¬({ Params.default with esc := 0x02#8 } : Params).Valid := by decide
theorem test_etx_eq_esc_refused : ¬({ Params.default with esc := 0x03#8 } : Params).Valid := by decide
theorem test_ack_without_bit_refused : ¬({ Params.default with flagAck := 0x00#8 } : Params).Valid := by decide
theorem test_ack_of_two_bits_refused : ¬({ Params.default with flagAck := 0x05#8 } : Params).Valid := by decide
theorem test_ignchk_without_bit_refused : ¬({ Params.default with flagIgnchk := 0x00#8 } : Params).Valid := by decide
theorem test_ignchk_of_two_bits_refused : ¬({ Params.default with flagIgnchk := 0xC0#8 } : Params).Valid := by decide
theorem test_equal_masks_refused : ¬({ Params.default with flagIgnchk := 0x01#8 } : Params).Valid := by decide
theorem test_narrow_addresses_refused : ¬({ Params.default with aw := 8, cw := 8 } : Params).Valid := by decide
theorem test_other_count_width_refused : ¬({ Params.default with cw := 17 } : Params).Valid := by decide
/-- Another instance: other reserved values, the narrowest memories. -/
def otherParams : Params :=
  { stx := 0x7E#8, etx := 0x7D#8, esc := 0x00#8, flagAck := 0x80#8, flagIgnchk := 0x40#8, typeNone := 0xFF#8, aw := 9, cw := 9 }
theorem test_other_params_valid : otherParams.Valid := by decide

/-! ### Decoding: the code table of 30_encoding.md R61, bit 7 first -/

theorem test_decode_isEsc : decode 0b00000001#8 = .ok .isEsc := by rfl
theorem test_decode_isStx : decode 0b00000010#8 = .ok .isStx := by rfl
theorem test_decode_isEtx : decode 0b00000011#8 = .ok .isEtx := by rfl
theorem test_decode_isRsv : decode 0b00000100#8 = .ok .isRsv := by rfl
theorem test_decode_stuff : decode 0b00010000#8 = .ok .stuff := by rfl
theorem test_decode_unstuff : decode 0b00010001#8 = .ok .unstuff := by rfl
theorem test_decode_encode : decode 0b00100000#8 = .ok .encode := by rfl
theorem test_decode_decode : decode 0b00100001#8 = .ok .decode := by rfl
theorem test_decode_emptyFrame : decode 0b00110000#8 = .ok .emptyFrame := by rfl
theorem test_decode_attachPayload : decode 0b00110001#8 = .ok .attachPayload := by rfl

/-- The edges of every illegal range of 30_encoding.md R62, refused by name. -/
theorem test_illegal_codes_refused :
    [0x00#8, 0x05#8, 0x0F#8, 0x12#8, 0x1F#8, 0x22#8, 0x2F#8, 0x32#8, 0xFF#8].all
      (fun c => refusal (decode c) = some (.illegalCode c)) = true := by decide

/-- 246 of the 256 codes are illegal (30_encoding.md R62). -/
theorem test_illegal_code_count :
    ((List.range 256).filter fun c => (refusal (decode (BitVec.ofNat 8 c))).isSome).length = 246 := by decide +kernel

theorem test_decode_script : decodeScript [0x30#8, 0x20#8] = .ok [.emptyFrame, .encode] := by rfl
theorem test_decode_script_refuses : decodeScript [0x30#8, 0x05#8, 0x20#8] = .error (.illegalCode 0x05#8) := by rfl

theorem test_table_word : decodeTableWord 8 0b00110001 = some .attachPayload := by decide
theorem test_table_word_illegal : decodeTableWord 8 0x12 = none := by decide
theorem test_fetched_word_runs : step (State.reset.withFetchWord 8 0x20) = .next { State.reset with status := 0x01#8 } := by rfl

/-! ### Each command on the spec's vectors -/

/-- K7, K6. -/
theorem test_isEsc : (after (exec .isEsc { State.reset with byteIn := 0x25#8 })).pred = 1#1
    ∧ (after (exec .isEsc { State.reset with byteIn := 0x24#8, pred := 1#1 })).pred = 0#1 := by decide
/-- K3, K4. -/
theorem test_isStx : (after (exec .isStx { State.reset with byteIn := 0x02#8 })).pred = 1#1
    ∧ (after (exec .isStx { State.reset with byteIn := 0x03#8, pred := 1#1 })).pred = 0#1 := by decide
/-- K4, K3. -/
theorem test_isEtx : (after (exec .isEtx { State.reset with byteIn := 0x03#8 })).pred = 1#1
    ∧ (after (exec .isEtx { State.reset with byteIn := 0x02#8, pred := 1#1 })).pred = 0#1 := by decide
/-- K1 to K9. -/
theorem test_isRsv :
    [0x00#8, 0x01#8, 0x02#8, 0x03#8, 0x04#8, 0x24#8, 0x25#8, 0x26#8, 0xFF#8].map
        (fun b => (after (exec .isRsv { State.reset with byteIn := b })).pred)
      = [0#1, 0#1, 1#1, 1#1, 0#1, 0#1, 1#1, 0#1, 0#1] := by decide

/-- T1, reserved byte. -/
theorem test_stuff_reserved : exec .stuff { State.reset with byteIn := 0x02#8 }
    = .next { State.reset with byteIn := 0x02#8, stOut0 := 0x25#8, stOut1 := 0x02#8, stN := 2#2 } := by rfl
/-- T5, with the filler written over an old value. -/
theorem test_stuff_plain : exec .stuff { State.reset with byteIn := 0x41#8, stOut1 := 0x77#8, status := 0x06#8 }
    = .next { State.reset with byteIn := 0x41#8, stOut0 := 0x41#8, stN := 1#2 } := by rfl
/-- T9, escaped non-reserved byte. -/
theorem test_unstuff_escaped : exec .unstuff { State.reset with unW0 := 0x25#8, unW1 := 0x41#8 }
    = .next { State.reset with unW0 := 0x25#8, unW1 := 0x41#8, unByte := 0x41#8, unConsumed := 2#2 } := by rfl
/-- T12, unescaped delimiter. -/
theorem test_unstuff_plain : exec .unstuff { State.reset with unW0 := 0x02#8, unW1 := 0xFF#8 }
    = .next { State.reset with unW0 := 0x02#8, unW1 := 0xFF#8, unByte := 0x02#8, unConsumed := 1#2 } := by rfl

/-- E4; the byte after the frame is untouched. -/
theorem test_encode_E4 :
    let t := after (exec .encode { frameE4 with dst := [(13, 0xEE#8)] })
    shown t .dst 14 = wireE4 ++ [0xEE#8] ∧ t.written = 13 ∧ t.status = 0x00#8 := by decide
/-- E24: `LENGTH_OVERFLOW` comes before `BUFFER_TOO_SMALL`. -/
theorem test_encode_E24 : after (exec .encode (toEncode 0x01#8 0x00#8 0x11#8 escapes128 6))
    = { toEncode 0x01#8 0x00#8 0x11#8 escapes128 6 with status := 0x05#8 } := by decide +kernel

/-- DV2. -/
theorem test_decode_DV2 :
    let t := after (exec .decode (toDecode wireE4 0x100))
    (t.status, t.frType, t.frFlags, t.frChk, t.frPlen, t.frPview) = (0x00#8, 0x10#8, 0x00#8, 0x55#8, 3#8, 3#2)
      ∧ shown t .scr 3 = reserved3 := by decide
/-- DV18: a unit straddles the payload budget. -/
theorem test_decode_DV18 :
    let s := toDecode [0x02#8, 0x01#8, 0x00#8, 0x25#8, 0x01#8, 0x25#8, 0x03#8, 0x00#8, 0x03#8] 0x100
    exec .decode s = .next { s with status := 0x04#8 } := by rfl

/-- H1. -/
theorem test_emptyFrame_H1 :
    exec .emptyFrame { State.reset with frType := 0x41#8, frFlags := 0x03#8, frChk := 0x99#8, frPlen := 2#8, frPview := 3#2 }
      = .next State.reset := by rfl
/-- The type is the instance's `TYPE_NONE` (44_frame_helpers.md R150). -/
theorem test_emptyFrame_type :
    (after (exec .emptyFrame { State.reset with params := { Params.default with typeNone := 0xFF#8 } })).frType = 0xFF#8 := by
  decide
/-- H6. -/
theorem test_attachPayload_H6 : exec .attachPayload { State.reset with argView := 3#2, argN := 0xFF#8 }
    = .next { State.reset with argView := 3#2, argN := 0xFF#8, frPview := 3#2, frPlen := 0xFF#8 } := by rfl
/-- H4, H5: the null view is tested first. -/
theorem test_attachPayload_rejects :
    (after (exec .attachPayload { State.reset with argView := 1#2 })).status = 0x02#8
      ∧ (after (exec .attachPayload State.reset)).status = 0x01#8 := by decide

/-! ### Host access (95_test_vectors.md A1 to A5) -/

theorem test_A1 : step (asked (.writeReg 1 0x0004)) = .next State.reset := by rfl
theorem test_A2 : (after (step (asked (.writeReg 15 0x00FF)))).hostReads (.readReg 15) = some 0x0003 := by decide
theorem test_A3 : (after (step (asked (.writeReg 18 0x00FE)))).hostReads (.readReg 18) = some 0x0000 := by decide
theorem test_A4 : State.reset.hostReads (.readReg 0) = some 0x0000 := by decide
theorem test_A5 : step (asked (.writeReg 20 0x1234)) = .next State.reset := by rfl

/-- A `CW`-bit register takes `CW` bits, a memory of another instance ends at its own last address (00_scope.md R4). -/
theorem test_widths :
    let s := State.resetWith otherParams [] [] [] [] [.writeReg 19 511, .writeMem .src 511 0x5A#8]
    (after (step s)).hostReads (.readReg 19) = some 511 ∧ (after (step (after (step s)))).hostReads (.readMem .src 511) = some 0x5A := by
  decide

/-- Script P1 of 95_test_vectors.md is this list of actions. -/
theorem test_script_lines :
    lineCMD .emptyFrame ++ lineWR .frType 1 ++ lineDSTBUF 16 ++ lineRD .status ++ lineRM .dst 0 2
      = [.writeReg 0 0x30, .writeReg 11 1, .writeReg 19 16, .writeReg 18 1, .readReg 1, .readMem .dst 0,
          .readMem .dst 1] := by decide

/-! ### Witnesses: reset, steps and the host's actions -/

/-- A legal state that is not reset: answers in the result registers, a written memory, a command asked for. -/
def busy : State :=
  { frameE4 with
    stOut0 := 0x25#8, stOut1 := 0x03#8, stN := 2#2, unByte := 0x41#8, unConsumed := 1#2, written := 265, status := 0x06#8
    pending := [issue 0x20#8, .writeMem .src 0xFFFF 0x00#8] }

theorem witness_busy_legal : busy.Inv where
  params := by decide
  status := by decide
  stuffed := Or.inr (Or.inr (by decide))
  unstuffed := Or.inr (Or.inl (by decide))
  written := Or.inr (by decide)
  counts := by decide
  memories := fun sp => by cases sp <;> rfl

/-- An instance with 512-byte memories, and a memory with a byte at its last address. -/
theorem witness_ResetIsLegal : otherParams.Valid ∧ Memory.wf otherParams.aw [(0, 0x02#8), (511, 0x03#8)] = true := by decide

theorem witness_StepKeepsLegalStates : ∃ s t, s.Inv ∧ step s = .next t ∧ t.written = 13 :=
  ⟨busy, _, witness_busy_legal, next_after (by decide), by decide⟩

theorem witness_EverySequenceRunsToItsEnd : busy.pending.length ≤ 2 := by decide

theorem witness_CmdWriteExecutesTheDecodedCommand :
    (asked (issue 0x11#8)).pending = issue 0x11#8 :: [] ∧ decode 0x11#8 = .ok .unstuff := ⟨rfl, rfl⟩

theorem witness_FetchedWordRunsNext : decodeTableWord 8 0x04 = some .isRsv := by decide

theorem witness_IllegalCodesRaise :
    ∀ c ∈ [0x00#8, 0x05#8, 0x0F#8, 0x12#8, 0x1F#8, 0x22#8, 0x2F#8, 0x32#8, 0xFF#8],
      (asked (issue c)).pending = issue c :: []
        ∧ (c.toNat = 0 ∨ (5 ≤ c.toNat ∧ c.toNat ≤ 0x0F) ∨ (0x12 ≤ c.toNat ∧ c.toNat ≤ 0x1F)
          ∨ (0x22 ≤ c.toNat ∧ c.toNat ≤ 0x2F) ∨ 0x32 ≤ c.toNat) := by
  intro c hc
  simp only [List.mem_cons, List.not_mem_nil, or_false] at hc
  rcases hc with rfl | rfl | rfl | rfl | rfl | rfl | rfl | rfl | rfl <;> exact ⟨rfl, by decide⟩

theorem witness_DecodeAndEncodeAgree :
    Instr.attachPayload.wellFormed = true ∧ decode 0x31#8 = .ok .attachPayload := ⟨rfl, rfl⟩

theorem witness_ScriptCodesRoundTrip : decodeScript [0x01#8, 0x31#8] = .ok [.isEsc, .attachPayload] := by rfl

theorem witness_HostRegisterWriteFollowsAccessRules :
    ∀ no ∈ [1, 15, 23, 24], no ≠ 0 ∧ (asked (.writeReg no 0xFFFF)).pending = .writeReg no 0xFFFF :: [] := by decide

theorem witness_HostReadsHaveNoSideEffect :
    (asked (.readReg 0)).pending = .readReg 0 :: [] ∧ (asked (.readMem .scr 0xFFFF)).pending = .readMem .scr 0xFFFF :: []
      ∧ 24 ≤ 24 ∧ { State.reset with dstCap := 0xFFFF, srcLen := 0xFFFF, scrCap := 0xFFFF, written := 265 }.CountsOk := by
  decide

/-- The last address of a space, of the default instance and of one with 512-byte memories. -/
theorem witness_HostMemoryAccessTouchesOneByte :
    0xFFFF < 2 ^ State.reset.params.aw ∧ 511 < 2 ^ otherParams.aw
      ∧ (asked (.writeMem .dst 0xFFFF 0x5A#8)).pending = .writeMem .dst 0xFFFF 0x5A#8 :: []
      ∧ (asked (.readMem .pay 0)).pending = .readMem .pay 0 :: [] := by decide

theorem witness_PayloadPseudoCommandAttaches :
    State.reset.params.WidthsOk ∧ 1 ≤ reserved3.length ∧ (List.replicate 255 0x02#8).length ≤ 255
      ∧ (State.reset.setPending (linePAYLOAD reserved3 ++ [.readReg 1])).pending = linePAYLOAD reserved3 ++ [.readReg 1] := by
  decide +kernel

theorem witness_SourcePseudoCommandLoads :
    State.reset.params.WidthsOk ∧ wireE4.length < 2 ^ State.reset.params.cw ∧ (State.reset.setPending (lineSRCBUF wireE4 ++ [])).pending = lineSRCBUF wireE4 ++ [] := by decide

theorem witness_RegisterPseudoCommandsConfigure :
    0xFFFF < 2 ^ State.reset.params.cw
      ∧ (State.reset.setPending (lineFRAME 0x10 0x00 0x55 ++ [])).pending = lineFRAME 0x10 0x00 0x55 ++ []
      ∧ (State.reset.setPending (lineNOPAYLOAD ++ [])).pending = lineNOPAYLOAD ++ []
      ∧ (State.reset.setPending (lineDSTBUF 0xFFFF ++ [])).pending = lineDSTBUF 0xFFFF ++ []
      ∧ (State.reset.setPending (lineSCRBUF 0 ++ [])).pending = lineSCRBUF 0 ++ [] := by decide

/-! ### Witnesses: classifier and stuffer -/

theorem witness_ReservedValuesAreDisjoint : Params.Disjoint { Params.default with esc := 0xFF#8 } := by decide

theorem witness_PredicatesArePure :
    ∃ s s' t t' : State, Instr.isRsv ∈ [Instr.isEsc, .isStx, .isEtx, .isRsv] ∧ s.byteIn = s'.byteIn ∧ s.params = s'.params
      ∧ exec .isRsv s = .next t ∧ exec .isRsv s' = .next t' ∧ s ≠ s' :=
  ⟨{ State.reset with byteIn := 0x25#8 }, { busy with byteIn := 0x25#8 }, _, _, by decide, rfl, rfl, rfl, rfl, by decide⟩

theorem witness_UnstuffInvertsStuff_functions :
    isRsv Params.default 0x25#8 = true ∧ isRsv Params.default 0x26#8 = false := by decide

/-- A reserved byte, then a plain one. -/
theorem witness_UnstuffInvertsStuff_commands :
    (∃ s t u : State, exec .stuff s = .next t ∧ u.params = s.params ∧ u.unW0 = t.stOut0 ∧ t.stN = 2#2 ∧ u.unW1 = t.stOut1)
      ∧ ∃ s t u : State, exec .stuff s = .next t ∧ u.params = s.params ∧ u.unW0 = t.stOut0
          ∧ (t.stN = 2#2 → u.unW1 = t.stOut1) ∧ t.stN = 1#2 :=
  ⟨⟨{ State.reset with byteIn := 0x03#8 }, _, { State.reset with unW0 := 0x25#8, unW1 := 0x03#8 }, rfl, rfl, rfl, rfl, rfl⟩,
    ⟨{ State.reset with byteIn := 0x41#8 }, _, { State.reset with unW0 := 0x41#8, unW1 := 0xFF#8 }, rfl, rfl, rfl, by decide,
      rfl⟩⟩

/-! ### Witnesses: ENCODE -/

/-- The hypotheses of `EncodeFollowsItsAlgorithm` on a state: the handles, the payload's wire length, the frame's
length. -/
def encodeTests (s : State) : Bool × Nat × Nat :=
  (decide (s.dstCtl = 1#1 ∧ (s.frPlen = 0x00#8 ∨ s.frPview.getLsbD 0 = true)), wireLen s.params s.payload,
    (wireFrame s.params s.frType s.frFlags s.frChk s.payload).length)

/-- Clause 1 (E21, E20): a length without a view; no destination. -/
theorem witness_encode_handles :
    (encodeTests { State.reset with dstCtl := 1#1, frPlen := 1#8 }).1 = false
      ∧ (encodeTests { State.reset with dstCtl := 0#1 }).1 = false := by decide
/-- Clause 2 (E15): a wire length of 256. -/
theorem witness_encode_overflow : encodeTests (toEncode 0x01#8 0x00#8 0x11#8 escapes128 0x200) = (true, 256, 263) := by
  decide +kernel
/-- Clauses 3 and 4 (E13): a wire length of 255, the frame's length 262. -/
theorem witness_encode_longest :
    encodeTests (toEncode 0x01#8 0x00#8 0x11#8 (List.replicate 127 0x25#8 ++ [0x41#8]) 261) = (true, 255, 262) := by
  decide +kernel
/-- Clauses 3 and 4 (E17, E18): the shortest frame, capacities 6 and 7. -/
theorem witness_encode_shortest :
    encodeTests (toEncode 0x01#8 0x00#8 0x7F#8 [] 6) = (true, 0, 7)
      ∧ encodeTests (toEncode 0x01#8 0x00#8 0x7F#8 [] 7) = (true, 0, 7) := by decide

/-- E18, and E10: the longest frame without payload. -/
theorem witness_EncodedFrameSizes :
    (∃ t, exec .encode (toEncode 0x01#8 0x00#8 0x7F#8 [] 7) = .next t ∧ t.Ok ∧ t.written = 7)
      ∧ (∃ t, exec .encode (toEncode 0x02#8 0x25#8 0x03#8 [] 10) = .next t ∧ t.Ok ∧ t.written = 10)
      ∧ (frameE4.frPlen.toNat ≤ 127 ∧ 10 + 2 * frameE4.frPlen.toNat ≤ frameE4.dstCap) :=
  ⟨⟨_, rfl, rfl, rfl⟩, ⟨_, rfl, rfl, rfl⟩, by decide⟩

/-- E15; E16, a payload of 255 bytes with a reserved one; and E4, a success. -/
theorem witness_EncodeLengthOverflow :
    (∃ t, exec .encode (toEncode 0x01#8 0x00#8 0x11#8 escapes128 0x200) = .next t ∧ t.status = 0x05#8)
      ∧ (let s := toEncode 0x01#8 0x00#8 0x11#8 (List.replicate 254 0x41#8 ++ [0x02#8]) 0x200
        present s.dstCtl = true ∧ viewValid s.frPview = true ∧ s.frPlen.toNat = 255
          ∧ ∃ b ∈ s.payload, isRsv s.params b = true)
      ∧ ∃ t, exec .encode frameE4 = .next t ∧ t.Ok :=
  ⟨⟨_, next_after (by decide +kernel), by decide +kernel⟩, by decide +kernel, ⟨_, rfl, rfl⟩⟩

theorem witness_encode_succeeds : ∃ t, frameE4.params.Valid ∧ exec .encode frameE4 = .next t ∧ t.Ok :=
  ⟨_, by decide, rfl, rfl⟩

theorem witness_LengthFieldPlaceAndValue :
    (∃ t, exec .encode frameE4 = .next t ∧ t.Ok)
      ∧ ∃ t, exec .encode (toEncode 0x02#8 0x25#8 0x03#8 [] 10) = .next t ∧ t.Ok :=
  ⟨⟨_, rfl, rfl⟩, ⟨_, rfl, rfl⟩⟩

/-- E3. -/
theorem witness_IgnoreChecksumAffectsTheWireOnly :
    ∃ t, frameE3.frFlags &&& frameE3.params.flagIgnchk ≠ 0x00#8 ∧ exec .encode frameE3 = .next t ∧ t.Ok :=
  ⟨_, by decide, rfl, rfl⟩

theorem witness_IgnoredChecksumHasNoInfluence :
    ∃ t, frameE3.frFlags &&& frameE3.params.flagIgnchk ≠ 0x00#8 ∧ exec .encode frameE3 = .next t := ⟨_, by decide, rfl⟩

theorem witness_EncodedFrameIsTransparent : ∃ t, frameE4.params.Valid ∧ exec .encode frameE4 = .next t ∧ t.Ok :=
  witness_encode_succeeds

/-- E4 and E25: the same payload seen in `PAY` and in `SCR`. -/
def frameE25 : State := { frameE4 with frPview := 3#2, pay := cells [0xAA#8, 0xBB#8, 0xCC#8], scr := cells reserved3 }

theorem witness_EncodeDependsOnItsOperandsOnly :
    ∃ t t' : State, frameE4.params = frameE25.params ∧ frameE4.frType = frameE25.frType ∧ frameE4.frFlags = frameE25.frFlags
      ∧ frameE4.frChk = frameE25.frChk ∧ frameE4.payload = frameE25.payload ∧ frameE4.frPlen = frameE25.frPlen
      ∧ viewValid frameE4.frPview = viewValid frameE25.frPview ∧ frameE4.dstCtl = frameE25.dstCtl
      ∧ frameE4.dstCap = frameE25.dstCap ∧ exec .encode frameE4 = .next t ∧ exec .encode frameE25 = .next t' ∧ t.Ok :=
  ⟨_, _, rfl, rfl, rfl, rfl, by decide, rfl, by decide, rfl, rfl, rfl, rfl, rfl⟩

/-! ### Witnesses: DECODE -/

/-- DV26, DV5, DV7, DV1. -/
theorem witness_DecodeHandleAndStartDelimiter :
    State.reset.srcCtl = 0#1
      ∧ (toDecode [] 0).srcCtl = 1#1 ∧ (toDecode [] 0).srcLen = 0
      ∧ (toDecode [0x01#8] 0).memRead .src 0 ≠ 0x02#8
      ∧ (toDecode wireE4 0).srcLen ≠ 0 ∧ (toDecode wireE4 0).memRead .src 0 = 0x02#8 := by decide

/-- Payload units that `stuff` does not produce: an escaped plain byte and an unescaped `ETX`. -/
def units : List (List Byte × Byte) := [([0x25#8, 0x41#8], 0x41#8), ([0x03#8], 0x03#8)]

/-- A frame of these units, with an escaped plain byte as type and an unescaped `LEN`; `last` stands for `ETX`. -/
def frameBytes (last : Byte) : List Byte :=
  [0x02#8] ++ [0x25#8, 0x41#8] ++ [0x00#8] ++ [0x03#8] ++ unitBytes units ++ [0x25#8, 0x03#8] ++ [last]

theorem witness_units :
    WireUnit Params.default [0x25#8, 0x41#8] 0x41#8 ∧ WireUnit Params.default [0x00#8] 0x00#8
      ∧ WireUnit Params.default [0x03#8] 0x03#8 ∧ WireUnit Params.default [0x25#8, 0x03#8] 0x03#8
      ∧ UnitsOk Params.default units ∧ (unitBytes units).length = (0x03#8).toNat := by
  refine ⟨Or.inr rfl, Or.inl ⟨rfl, by decide⟩, Or.inl ⟨rfl, by decide⟩, Or.inr rfl, ?_, rfl⟩
  intro u hu
  simp only [units, List.mem_cons, List.not_mem_nil, or_false] at hu
  rcases hu with rfl | rfl
  · exact Or.inr rfl
  · exact Or.inl ⟨rfl, by decide⟩

/-- Exactly enough readable bytes and exactly enough scratch. -/
theorem witness_DecodeAcceptsEveryWireFrame :
    let s := toDecode (frameBytes 0x03#8) 2
    s.params = Params.default ∧ s.srcCtl = 1#1 ∧ (frameBytes 0x03#8).length ≤ s.srcLen ∧ s.Shows .src (frameBytes 0x03#8)
      ∧ units.length ≤ s.scrCap := by
  unfold State.Shows; decide

theorem witness_DecodeAcceptsOnlyWireFrames : ∃ u, exec .decode (toDecode wireE4 3) = .next u ∧ u.Ok := ⟨_, rfl, rfl⟩

/-- One readable byte; all but the last of the payload region, with no scratch at all (DV24); the whole region; all but
the last byte of the frame. -/
theorem witness_TruncatedFrameIsEndMissing :
    ∀ c ∈ [(1, 0), (7, 0), (8, 2), (10, 2)],
      let s := { toDecode (frameBytes 0x03#8) c.2 with srcLen := c.1 }
      s.params = Params.default ∧ s.srcCtl = 1#1 ∧ 1 ≤ s.srcLen ∧ s.srcLen < (frameBytes 0x03#8).length
        ∧ s.Shows .src (frameBytes 0x03#8)
        ∧ (([0x02#8] ++ [0x25#8, 0x41#8] ++ [0x00#8] ++ [0x03#8] ++ unitBytes units).length ≤ s.srcLen →
          units.length ≤ s.scrCap) := by
  intro c hc
  simp only [List.mem_cons, List.not_mem_nil, or_false] at hc
  rcases hc with rfl | rfl | rfl | rfl <;> · unfold State.Shows; decide

/-- `cnt = 4`: the two units of `units` take 3 bytes, then an `ESC` at the last byte of the budget. -/
def straddling : List Byte := [0x02#8] ++ [0x25#8, 0x41#8] ++ [0x00#8] ++ [0x04#8] ++ unitBytes units ++ [0x25#8]

theorem witness_StraddlingUnitIsEndMissing :
    let s := toDecode straddling 0
    WireUnit s.params [0x04#8] 0x04#8 ∧ (unitBytes units).length + 1 = (0x04#8).toNat ∧ s.srcCtl = 1#1
      ∧ straddling.length ≤ s.srcLen ∧ s.Shows .src straddling := by
  unfold State.Shows WireUnit; decide

/-- The region is whole, one logical byte more than fits, nothing after it. -/
theorem witness_PayloadLargerThanScratchIsRejected :
    let head := [0x02#8] ++ [0x25#8, 0x41#8] ++ [0x00#8] ++ [0x03#8] ++ unitBytes units
    let s := toDecode head 1
    s.params = Params.default ∧ s.srcCtl = 1#1 ∧ head.length ≤ s.srcLen ∧ s.Shows .src head
      ∧ s.scrCap < units.length := by
  unfold State.Shows; decide

theorem witness_WrongEndDelimiterIsEndMissing :
    let s := toDecode (frameBytes 0x04#8) 2
    (0x04#8 : Byte) ≠ s.params.etx ∧ s.params = Params.default ∧ s.srcCtl = 1#1 ∧ (frameBytes 0x04#8).length ≤ s.srcLen
      ∧ s.Shows .src (frameBytes 0x04#8) ∧ units.length ≤ s.scrCap := by
  unfold State.Shows; decide

/-- DV14: the end delimiter is there, but not readable. -/
theorem witness_BytesBeyondSourceLengthHaveNoInfluence :
    let s := { toDecode wireE4 3 with srcLen := 12 }
    (∃ t, exec .decode s = .next t)
      ∧ (∀ k, k < s.srcLen → ({ s with src := cells (wireE4.take 12) } : State).memRead .src k = s.memRead .src k) := by
  refine ⟨⟨_, rfl⟩, ?_⟩
  decide

/-- E4 encoded, copied to `SRC` of a framer with exactly enough scratch. -/
theorem witness_DecodeInvertsEncode :
    ∃ t, exec .encode frameE4 = .next t ∧ t.Ok
      ∧ (let d := toDecode wireE4 3
        d.params = frameE4.params ∧ d.srcCtl = 1#1 ∧ t.written ≤ d.srcLen
          ∧ (∀ k, k < t.written → d.memRead .src k = t.memRead .dst k) ∧ frameE4.frPlen.toNat ≤ d.scrCap) :=
  ⟨after (exec .encode frameE4), rfl, rfl, by decide⟩

/-! ### Witnesses: frame helpers and the whole machine -/

theorem witness_AttachPayloadRebindsOrRejects :
    (2#2 : BitVec 2).getLsbD 0 = false ∧ (3#2 : BitVec 2).getLsbD 0 = true ∧ (0x00#8 : Byte) ≠ 0xFF#8 := by decide

theorem witness_CommandsKeepThePayloadViewInvariant :
    (∃ t, exec .isEsc frameE4 = .next t ∧ frameE4.frPlen ≠ 0x00#8 ∧ viewValid frameE4.frPview = true ∧ t.frPlen ≠ 0x00#8)
      ∧ (∃ t, exec .attachPayload { State.reset with argView := 1#2, argN := 1#8 } = .next t ∧ t.Ok)
      ∧ (∃ t, exec .emptyFrame frameE4 = .next t)
      ∧ ∃ t, exec .decode (toDecode wireE4 3) = .next t ∧ t.Ok :=
  ⟨⟨_, rfl, by decide, by decide, by decide⟩, ⟨_, rfl, rfl⟩, ⟨_, rfl⟩, ⟨_, rfl, rfl⟩⟩

theorem witness_FailedCommandChangesStatusOnly :
    (∃ t, exec .decode State.reset = .next t ∧ t.status ≠ 0x00#8)
      ∧ (asked (issue 0x00#8)).pending = issue 0x00#8 :: [] ∧ decode 0x00#8 = .error (.illegalCode 0x00#8) :=
  ⟨⟨_, rfl, by decide⟩, rfl, rfl⟩

theorem witness_StatusCodesOfEachCommand :
    (∃ t, exec .encode State.reset = .next t)
      ∧ ∃ t, (asked (issue 0x32#8)).pending = issue 0x32#8 :: [] ∧ step (asked (issue 0x32#8)) = .next t :=
  ⟨⟨_, rfl⟩, ⟨_, rfl, rfl⟩⟩

theorem witness_StatusAndPredSteerNothing : ∃ t, exec .isStx busy = .next t ∧ t.status ≠ busy.status := ⟨_, rfl, by decide⟩

theorem witness_CommandsWriteTheirResultsOnly : ∃ t, exec .encode busy = .next t ∧ t.written ≠ busy.written :=
  ⟨_, rfl, by decide⟩

theorem witness_CommandsWriteInsideTheirFootprint :
    (∃ t, exec .encode frameE4 = .next t ∧ t.Ok ∧ t.written ≤ 13)
      ∧ (∃ t, exec .encode State.reset = .next t ∧ ¬t.Ok)
      ∧ ∃ t, exec .decode (toDecode wireE4 3) = .next t ∧ t.Ok ∧ t.frPlen.toNat ≤ 3 :=
  ⟨⟨_, rfl, rfl, by decide⟩, ⟨_, rfl, by decide⟩, ⟨_, rfl, rfl, by decide⟩⟩

/-- The second clause's premise with all four memories changed and the payload in `SCR` kept; once with `DST` kept. The
third with `SCR` changed, and kept. -/
theorem witness_CommandsReadInsideTheirFootprint :
    (∃ t, Instr.stuff ≠ .encode ∧ Instr.stuff ≠ .decode ∧ exec .stuff frameE4 = .next t)
      ∧ (∃ t, (∀ k, k < frameE25.frPlen.toNat →
            ({ frameE25 with pay := [], scr := cells (reserved3 ++ [0x00#8]), dst := cells wireE4, src := [] } : State).memRead
              (viewSpace frameE25.frPview) k = frameE25.memRead (viewSpace frameE25.frPview) k)
          ∧ exec .encode frameE25 = .next t ∧ cells wireE4 ≠ frameE25.dst ∧ [] = frameE25.dst)
      ∧ ∃ t, exec .decode (toDecode wireE4 3) = .next t ∧ cells reserved3 ≠ (toDecode wireE4 3).scr
          ∧ [] = (toDecode wireE4 3).scr :=
  ⟨⟨_, by decide, by decide, rfl⟩, ⟨_, by decide, rfl, by decide, rfl⟩, ⟨_, rfl, by decide, rfl⟩⟩

end Sys2Proof.Tests
end

/-! Proofs of the family of 10_state.md: register values after reset (R29), the write of `CMD` (R21), and the
independence of `STATUS` and `PRED` (R26). -/

namespace Sys2Proof.Machine

/-! ### Reset -/

/-- 10_state.md R29, the register table. -/
theorem State.resetWith_readReg (p : Params) (pay scr dst src : Memory) (acts : List HostAction) (r : Reg) :
    (State.resetWith p pay scr dst src acts).readReg r = if r = .frType then p.typeNone.toNat else 0 := by
  cases r <;> simp [State.resetWith, State.readReg]

/-- Settles O1: register by register; the memories are the arguments of `State.resetWith`. -/
theorem resetRegisterValues : Obligations.ResetRegisterValues := by
  intro p pay scr dst src acts r
  exact ⟨State.resetWith_readReg p pay scr dst src acts r, rfl, rfl, rfl, rfl⟩

/-! ### Writing `CMD` -/

/-- Issuing a code that decodes has the effect of its command. -/
theorem act_issue_of_decode {c : Byte} {i : Instr} (h : decode c = .ok i) (s : State) :
    act (issue c) s = exec i s := by
  simp [act, h]

/-- Settles O6: the step takes the action off the list, and the action is the command of its code. -/
theorem cmdWriteExecutesTheDecodedCommand : Obligations.CmdWriteExecutesTheDecodedCommand := by
  refine ⟨fun s c rest i hp hd => ?_, fun s => ⟨rfl, fun _ => rfl⟩⟩
  calc step s = act (issue c) (s.setPending rest) := step_of_pending hp
    _ = exec i (s.setPending rest) := act_issue_of_decode hd _

/-! ### The answers of `STUFF` and `ATTACH_PAYLOAD`, by the test that leads to each -/

section
variable {s : State}

theorem exec_stuff_of_reserved (h : isRsv s.params s.byteIn = true) :
    exec .stuff s = .next ((s.setStuffed s.params.esc s.byteIn 2#2).setStatus 0x00#8) := by
  simp [exec, execStuff, h]

theorem exec_stuff_of_plain (h : isRsv s.params s.byteIn = false) :
    exec .stuff s = .next ((s.setStuffed s.byteIn 0x00#8 1#2).setStatus 0x00#8) := by
  simp [exec, execStuff, h]

theorem exec_attachPayload_of_null (h : viewValid s.argView = false) :
    exec .attachPayload s = .next (s.setStatus 0x01#8) := by
  simp [exec, execAttachPayload, h, errorCode]

theorem exec_attachPayload_of_empty (h : viewValid s.argView = true) (hn : s.argN = 0x00#8) :
    exec .attachPayload s = .next (s.setStatus 0x02#8) := by
  simp [exec, execAttachPayload, h, hn, errorCode]

theorem exec_attachPayload_of_bound (h : viewValid s.argView = true) (hn : s.argN ≠ 0x00#8) :
    exec .attachPayload s = .next ((s.setPayload s.argN (boundView s.argView)).setStatus 0x00#8) := by
  simp [exec, execAttachPayload, h, hn]

end

/-! ### `STATUS` and `PRED` steer nothing

The tests of the commands read neither register, so each lemma below takes the same branch before and after the change;
`STATUS` is written last in every branch, and `PRED` is written by the classifier alone. -/

section
variable (s : State) (x : Byte) (y : BitVec 1)

@[simp] theorem State.classify_setStatus_setPred (f : Params → Byte → Bool) :
    ((s.setStatus x).setPred y).classify f = s.classify f := rfl

theorem State.frameToEmit_setStatus_setPred :
    ((s.setStatus x).setPred y).frameToEmit = s.frameToEmit := rfl

theorem State.frameInSource_setStatus_setPred :
    ((s.setStatus x).setPred y).frameInSource = s.frameInSource := rfl

theorem State.emitFrame_setStatus_setPred (fr : List Byte) :
    ((s.setStatus x).setPred y).emitFrame fr = (s.emitFrame fr).setPred y := rfl

theorem State.commitFrame_setStatus_setPred (d : DecodedFrame) :
    ((s.setStatus x).setPred y).commitFrame d = (s.commitFrame d).setPred y := by
  unfold State.commitFrame
  split <;> rfl

/-- A classifier command overwrites both registers. -/
theorem exec_setStatus_setPred_of_classifier {i : Instr} (hi : i ∈ [Instr.isEsc, .isStx, .isEtx, .isRsv]) :
    exec i ((s.setStatus x).setPred y) = exec i s := by
  simp only [List.mem_cons, List.not_mem_nil, or_false] at hi
  rcases hi with rfl | rfl | rfl | rfl
  · simp [exec_isEsc]
  · simp [exec_isStx]
  · simp [exec_isEtx]
  · simp [exec_isRsv]

/-- A command that is no predicate answers the same state up to `PRED`, which it keeps. -/
theorem exec_setStatus_setPred_of_not_classifier {i : Instr} (hi : i ∉ [Instr.isEsc, .isStx, .isEtx, .isRsv]) :
    ∃ t, exec i s = .next t ∧ exec i ((s.setStatus x).setPred y) = .next (t.setPred y) := by
  cases i with
  | isEsc | isStx | isEtx | isRsv => simp at hi
  | stuff =>
    cases h : isRsv s.params s.byteIn
    · exact ⟨_, exec_stuff_of_plain h, exec_stuff_of_plain h⟩
    · exact ⟨_, exec_stuff_of_reserved h, exec_stuff_of_reserved h⟩
  | unstuff => exact ⟨_, rfl, rfl⟩
  | encode =>
    rcases exec_encode_cases s with ⟨e, he, h⟩ | ⟨fr, hfr, h⟩
    · exact ⟨_, h, exec_encode_of_error ((s.frameToEmit_setStatus_setPred x y).trans he)⟩
    · exact ⟨_, h, by rw [exec_encode_of_ok ((s.frameToEmit_setStatus_setPred x y).trans hfr),
        State.emitFrame_setStatus_setPred]⟩
  | decode =>
    rcases exec_decode_cases s with ⟨e, he, h⟩ | ⟨d, hd, h⟩
    · exact ⟨_, h, exec_decode_of_error ((s.frameInSource_setStatus_setPred x y).trans he)⟩
    · exact ⟨_, h, by rw [exec_decode_of_ok ((s.frameInSource_setStatus_setPred x y).trans hd),
        State.commitFrame_setStatus_setPred]⟩
  | emptyFrame => exact ⟨_, rfl, rfl⟩
  | attachPayload =>
    cases h : viewValid s.argView
    · exact ⟨_, exec_attachPayload_of_null h, exec_attachPayload_of_null h⟩
    · by_cases hn : s.argN = 0x00#8
      · exact ⟨_, exec_attachPayload_of_empty h hn, exec_attachPayload_of_empty h hn⟩
      · exact ⟨_, exec_attachPayload_of_bound h hn, exec_attachPayload_of_bound h hn⟩
end

/-- Settles O48: a classifier command overwrites the changed `PRED`, any other command keeps it; no command tests it,
and every command overwrites `STATUS`. -/
theorem statusAndPredSteerNothing : Obligations.StatusAndPredSteerNothing := by
  intro i s t x y h
  change exec i ((s.setStatus x).setPred y) = .next (t.setPred _)
  by_cases hi : i ∈ [Instr.isEsc, .isStx, .isEtx, .isRsv]
  · rw [if_pos hi, exec_setStatus_setPred_of_classifier s x y hi, h]
    rfl
  · obtain ⟨t', ht', hkeep⟩ := exec_setStatus_setPred_of_not_classifier s x y hi
    obtain rfl : t' = t := by simpa [ht'] using h
    rw [if_neg hi, hkeep]

end Sys2Proof.Machine

/-! Proofs of the family of 20_memory.md: what a host access of a memory byte does, and what it leaves (R49). -/

namespace Sys2Proof.Machine

/-! ### What a memory write leaves unchanged -/

section
variable (s : State) (sp : MemSpace) (a : Nat) (v : Byte)

@[simp] theorem State.setMem_readReg (m : Memory) (r : Reg) : (s.setMem sp m).readReg r = s.readReg r := by
  cases sp <;> rfl

@[simp] theorem State.memWrite_readReg (r : Reg) : (s.memWrite sp a v).readReg r = s.readReg r :=
  s.setMem_readReg sp _ r

@[simp] theorem State.memWrite_params : (s.memWrite sp a v).params = s.params := s.setMem_params sp _

@[simp] theorem State.memWrite_pending : (s.memWrite sp a v).pending = s.pending := s.setMem_pending sp _

@[simp] theorem State.setPending_readReg (as : List HostAction) (r : Reg) :
    (s.setPending as).readReg r = s.readReg r := rfl

end

/-! ### The step that performs a memory access -/

section
variable {s : State} {sp : MemSpace} {a : Nat} {v : Byte} {rest : List HostAction}

/-- A host write inside the space: no extent register takes part. -/
theorem step_of_pending_writeMem (h : s.pending = .writeMem sp a v :: rest) (ha : a < 2 ^ s.params.aw) :
    step s = .next ((s.setPending rest).memWrite sp a v) := by
  have haddr : (s.setPending rest).hostAddr a = a := State.hostAddr_of_lt _ ha
  calc step s = act (.writeMem sp a v) (s.setPending rest) := step_of_pending h
    _ = .next ((s.setPending rest).memWrite sp ((s.setPending rest).hostAddr a) v) := rfl
    _ = .next ((s.setPending rest).memWrite sp a v) := by rw [haddr]

/-- A host read takes itself off the list, at any address. -/
theorem step_of_pending_readMem (h : s.pending = .readMem sp a :: rest) : step s = .next (s.setPending rest) :=
  step_of_pending h

theorem State.hostReads_readMem (ha : a < 2 ^ s.params.aw) :
    s.hostReads (.readMem sp a) = some (s.memRead sp a).toNat := by
  rw [State.hostReads, State.hostAddr_of_lt s ha]

end

/-- Settles O14: the write is one `memWrite` at the address itself, whose reads `State.memRead_memWrite` gives. -/
theorem hostMemoryAccessTouchesOneByte : Obligations.HostMemoryAccessTouchesOneByte := by
  intro s sp a v rest ha
  refine ⟨fun hp => ⟨_, step_of_pending_writeMem hp ha, fun sp' a' => ?bytes, fun r => ?registers, ?params, ?pending⟩,
    step_of_pending_readMem, State.hostReads_readMem ha⟩
  case bytes => rw [State.memRead_memWrite, State.setPending_memRead]
  case registers => rw [State.memWrite_readReg, State.setPending_readReg]
  case params => rw [State.memWrite_params, State.setPending_params]
  case pending => rw [State.memWrite_pending, State.setPending_pending]

end Sys2Proof.Machine

/-! Proofs of the family of 30_encoding.md: the command codes (R61, R62) and the sizes of encoded frames (R75). -/

namespace Sys2Proof

/-! ### The command codes -/

/-- The decoder accepts the code of the command it answers, and no other (30_encoding.md R61, R63). -/
theorem decode_eq_ok_iff {c : Byte} {i : Instr} : decode c = .ok i ↔ c = encode i := by
  constructor
  · intro h
    unfold decode at h
    split_ifs at h <;> cases h <;> assumption
  · rintro rfl
    cases i <;> rfl

/-- Settles O9: the rows of the table are the pairs of `encode`, and `decode` answers by these. -/
theorem commandCodesDecodeAsTabled : Obligations.CommandCodesDecodeAsTabled := by
  intro c i
  rw [decode_eq_ok_iff]
  cases i <;> simp [encode]

namespace Machine

/-- Issuing a byte that is no command's code raises `ILLEGAL_COMMAND` (30_encoding.md R62). -/
theorem act_issue_of_ne_encode {c : Byte} (h : ∀ i, c ≠ encode i) (s : State) :
    act (issue c) s = .next (s.setStatus 0x06#8) := by
  rcases act_cases (issue c) s with ⟨c', i, hc, hd, -⟩ | ⟨-, -, -, -, ha⟩ | ⟨hc, -⟩
  · obtain rfl : c = c' := by simpa using hc
    exact absurd (decode_eq_ok_iff.1 hd) (h i)
  · exact ha
  · simp at hc

/-- Settles O8: no command's code lies in the listed ranges. -/
theorem illegalCodesRaise : Obligations.IllegalCodesRaise := by
  intro s c rest hp hgap
  have hc : ∀ i, c ≠ encode i := by
    rintro i rfl
    cases i <;> simp [encode] at hgap
  calc step s = act (issue c) (s.setPending rest) := step_of_pending hp
    _ = .next ((s.setPending rest).setStatus 0x06#8) := act_issue_of_ne_encode hc _

/-! ### Sizes of encoded frames -/

/-- A reserved byte costs one wire byte more (30_encoding.md R75, `1 + r(b)`). -/
theorem stuffLen_eq (p : Params) (b : Byte) : stuffLen p b = 1 + if isRsv p b = true then 1 else 0 := by
  obtain ⟨h, -, hlen⟩ | ⟨h, -, hlen⟩ := stuff_cases p b <;> simp [h, hlen]

theorem errorCode_injective : Function.Injective errorCode := by
  intro d e
  cases d <;> cases e <;> decide

/-- When the tests report `LENGTH_OVERFLOW` (42_encode.md R112): they look no further than the length. -/
theorem State.frameToEmit_eq_lengthOverflow {s : State} :
    s.frameToEmit = .error .lengthOverflow ↔ s.encodeHandles = true ∧ 255 < wireLen s.params s.payload := by
  rw [State.frameToEmit_eq]
  split_ifs with hhandles hlen
  · simp [hhandles]
  · simp [hhandles, hlen]
  · simp [hlen]
  · simp [hlen]

/-- When the tests report `BUFFER_TOO_SMALL` (42_encode.md R118): only after the length has passed. -/
theorem State.frameToEmit_eq_bufferTooSmall {s : State} :
    s.frameToEmit = .error .bufferTooSmall ↔
      s.encodeHandles = true ∧ wireLen s.params s.payload ≤ 255
        ∧ s.dstCap < (wireFrame s.params s.frType s.frFlags s.frChk s.payload).length := by
  rw [State.frameToEmit_eq]
  split_ifs with hhandles hlen hcap
  · simp [hhandles]
  · simp [hlen]
  · simp [hhandles, hcap, Nat.le_of_not_lt hlen]
  · simp [hcap]

@[simp] theorem State.emitFrame_written (s : State) (fr : List Byte) : (s.emitFrame fr).written = fr.length := rfl

section
variable {s t : State} (h : exec .encode s = .next t)
include h

/-- `ENCODE` ends in `OK` only by emitting the frame that its tests answer. -/
theorem exec_encode_of_Ok (hok : t.Ok) : ∃ fr, s.frameToEmit = .ok fr ∧ t = s.emitFrame fr := by
  rcases exec_encode_cases s with ⟨e, -, hs⟩ | ⟨fr, hfr, hs⟩
  · obtain rfl : s.setStatus (errorCode e) = t := by simpa [hs] using h
    exact absurd hok (errorCode_ne_zero e)
  · obtain rfl : s.emitFrame fr = t := by simpa [hs] using h
    exact ⟨fr, hfr, rfl⟩

/-- `ENCODE` leaves the code of an error only where its tests report that error. -/
theorem frameToEmit_of_exec_encode_status {e : ErrorKind} (he : t.status = errorCode e) :
    s.frameToEmit = .error e := by
  rcases exec_encode_cases s with ⟨d, hd, hs⟩ | ⟨fr, -, hs⟩
  · obtain rfl : s.setStatus (errorCode d) = t := by simpa [hs] using h
    rw [hd, errorCode_injective he]
  · obtain rfl : s.emitFrame fr = t := by simpa [hs] using h
    exact absurd he.symm (errorCode_ne_zero e)

end

/-- Settles O27: the payload region has `n + R` wire bytes, and a frame has 7 bytes beside it and one more for each
reserved byte among the type, the flags and the checksum. -/
theorem encodedFrameSizes : Obligations.EncodedFrameSizes := by
  intro s t h r c n R
  have hwire : wireLen s.params s.payload = n + R := by rw [wireLen_eq, State.length_payload]
  have hlen : (wireFrame s.params s.frType s.frFlags s.frChk s.payload).length
      = 7 + r s.frType + r s.frFlags + r c + (n + R) := by
    rw [length_wireFrame, hwire, stuffLen_eq, stuffLen_eq, stuffLen_eq]
    dsimp only [r, c]
    omega
  have hr : ∀ b, r b ≤ 1 := fun b => by dsimp only [r]; split <;> omega
  have := hr s.frType
  have := hr s.frFlags
  have := hr c
  have hR : R ≤ n := (List.length_filter_le _ _).trans_eq s.length_payload
  refine ⟨hR, fun hok => ?success, fun hn h5 => ?overflow, fun hcap h2 => ?capacity⟩
  case success =>
    obtain ⟨fr, hfr, rfl⟩ := exec_encode_of_Ok h hok
    obtain ⟨-, hw, rfl, -, -, -⟩ := State.frameToEmit_ok hfr
    rw [State.emitFrame_written, hlen]
    omega
  case overflow =>
    have hreport : s.frameToEmit = .error .lengthOverflow := frameToEmit_of_exec_encode_status h h5
    obtain ⟨-, hlong⟩ := State.frameToEmit_eq_lengthOverflow.1 hreport
    omega
  case capacity =>
    have hreport : s.frameToEmit = .error .bufferTooSmall := frameToEmit_of_exec_encode_status h h2
    obtain ⟨-, -, hbig⟩ := State.frameToEmit_eq_bufferTooSmall.1 hreport
    omega

end Machine

end Sys2Proof

/-! Proofs of the family of 40_classifier.md: what the predicate commands answer (R90 to R93), the disjointness of the
reserved values (R94), and purity (R95). -/

namespace Sys2Proof.Machine

/-! ### The predicates -/

theorem isStx_iff (p : Params) (b : Byte) : isStx p b = true ↔ b = p.stx := by simp [isStx]

theorem isEtx_iff (p : Params) (b : Byte) : isEtx p b = true ↔ b = p.etx := by simp [isEtx]

/-- Settles O19: a byte that satisfies two predicates would equal two of the reserved values. -/
theorem reservedValuesAreDisjoint : Obligations.ReservedValuesAreDisjoint := by
  refine ⟨fun p b hp => ?_, by decide⟩
  obtain ⟨hstxEtx, hstxEsc, hetxEsc⟩ := hp
  simp only [isEsc_iff, isStx_iff, isEtx_iff]
  refine ⟨?escStx, ?escEtx, ?stxEtx⟩
  case escStx => exact fun ⟨hesc, hstx⟩ => hstxEsc (hstx.symm.trans hesc)
  case escEtx => exact fun ⟨hesc, hetx⟩ => hetxEsc (hetx.symm.trans hesc)
  case stxEtx => exact fun ⟨hstx, hetx⟩ => hstxEtx (hstx.symm.trans hetx)

/-! ### The predicate commands -/

/-- The answer of a classifier command, by the proposition that its predicate decides. -/
theorem State.classify_eq_of_iff {s : State} {f : Params → Byte → Bool} {P : Prop} [Decidable P]
    (h : f s.params s.byteIn = true ↔ P) :
    s.classify f = { s with pred := if P then 1#1 else 0#1, status := 0x00#8 } := by
  simp only [State.classify_eq, predBit, h]

/-- Settles O18: each command classifies by its predicate, which decides the equality, or the three, of its rule. -/
theorem classifierCommandsAnswer : Obligations.ClassifierCommandsAnswer := by
  intro s
  refine ⟨?esc, ?stx, ?etx, ?rsv⟩
  case esc => rw [exec_isEsc, State.classify_eq_of_iff (isEsc_iff _ _)]
  case stx => rw [exec_isStx, State.classify_eq_of_iff (isStx_iff _ _)]
  case etx => rw [exec_isEtx, State.classify_eq_of_iff (isEtx_iff _ _)]
  case rsv => rw [exec_isRsv, State.classify_eq_of_iff (isRsv_iff _ _)]

/-- Every predicate command classifies, by one predicate for all states. -/
theorem exec_eq_classify_of_classifier {i : Instr} (hi : i ∈ [Instr.isEsc, .isStx, .isEtx, .isRsv]) :
    ∃ f, ∀ s, exec i s = .next (s.classify f) := by
  simp only [List.mem_cons, List.not_mem_nil, or_false] at hi
  rcases hi with rfl | rfl | rfl | rfl
  · exact ⟨isEsc, exec_isEsc⟩
  · exact ⟨isStx, exec_isStx⟩
  · exact ⟨isEtx, exec_isEtx⟩
  · exact ⟨isRsv, exec_isRsv⟩

@[simp] theorem State.classify_pred (s : State) (f : Params → Byte → Bool) :
    (s.classify f).pred = predBit (f s.params s.byteIn) := rfl

/-- Classifying changes neither operand, so a second time gives the same state. -/
@[simp] theorem State.classify_classify (s : State) (f : Params → Byte → Bool) :
    (s.classify f).classify f = s.classify f := rfl

/-- Settles O20: the answer is the predicate's on the parameters and `BYTE_IN`, and classifying is idempotent. -/
theorem predicatesArePure : Obligations.PredicatesArePure := by
  intro i s s' t t' hi hbyte hparams ht ht'
  obtain ⟨f, hf⟩ := exec_eq_classify_of_classifier hi
  obtain rfl : s.classify f = t := by simpa [hf] using ht
  obtain rfl : s'.classify f = t' := by simpa [hf] using ht'
  refine ⟨?answer, ?again⟩
  case answer => rw [State.classify_pred, State.classify_pred, hbyte, hparams]
  case again => rw [hf, State.classify_classify]

end Sys2Proof.Machine

/-! Proofs of the family of 41_stuffer.md: the stuffing functions (R100, R101), the commands (R102, R103), the round trip
(R104), and transparency (R105). -/

namespace Sys2Proof.Machine

/-! ### Transparency -/

/-- The parse of a stuffed sequence takes one stuffed byte off the front at a time. -/
theorem wireUnits_stuffAll (p : Params) (bs : List Byte) : wireUnits p (stuffAll p bs) = bs.map (stuff p) := by
  induction bs with
  | nil => simp [wireUnits]
  | cons b bs ih => rw [stuffAll_cons, wireUnits_append (wireUnit_stuff p b), ih, List.map_cons]

/-- Settles O25: the units parsed are the stuffed bytes, and `stuff` produces canonical units. -/
theorem stuffedSequenceIsTransparent : Obligations.StuffedSequenceIsTransparent := by
  intro p bs
  have hunits : wireUnits p (bs.flatMap (stuff p)) = bs.map (stuff p) := wireUnits_stuffAll p bs
  refine ⟨hunits, ?canonical⟩
  case canonical =>
    rw [hunits]
    exact List.forall_mem_map.2 fun b _ => canonicalUnit_stuff p b

/-! ### The functions -/

theorem stuff_eq_ite (p : Params) (b : Byte) :
    stuff p b = if b = p.esc ∨ b = p.stx ∨ b = p.etx then [p.esc, b] else [b] := by
  simp only [stuff, isRsv_iff]

theorem unstuff_eq_ite (p : Params) (w0 w1 : Byte) :
    unstuff p w0 w1 = if w0 = p.esc then (w1, 2) else (w0, 1) := by
  simp only [unstuff, isEsc_iff]

/-- Settles O21: the two tests decide the equalities of the rules, and `stuffLen` is the length of what `stuff` gives. -/
theorem stuffAndUnstuffFunctions : Obligations.StuffAndUnstuffFunctions :=
  fun p b w => ⟨stuff_eq_ite p b, (length_stuff p b).symm, unstuff_eq_ite p b w⟩

/-- `ESC` and a byte unstuff to that byte. -/
@[simp] theorem unstuff_esc (p : Params) (w : Byte) : unstuff p p.esc w = (w, 2) := by simp [unstuff_eq_ite]

/-- A byte that is not `ESC` unstuffs to itself, whatever follows. -/
theorem unstuff_of_ne_esc {p : Params} {b : Byte} (h : b ≠ p.esc) (w : Byte) : unstuff p b w = (b, 1) := by
  simp [unstuff_eq_ite, h]

/-! ### The commands -/

/-- Settles O22: the reserved bytes are the three of the rule, so the two answers are the two branches. -/
theorem stuffCommandAnswers : Obligations.StuffCommandAnswers := by
  intro s
  simp only [← isRsv_iff]
  obtain ⟨hrsv, hexec⟩ | ⟨hplain, hexec⟩ := exec_stuff_cases s
  · rw [hexec, if_pos hrsv]
    rfl
  · rw [hexec, if_neg (by simp [hplain])]
    rfl

/-- Settles O23: the two answers are the two branches. -/
theorem unstuffCommandAnswers : Obligations.UnstuffCommandAnswers := by
  intro s
  obtain ⟨hesc, hexec⟩ | ⟨hesc, hexec⟩ := exec_unstuff_cases s
  · rw [hexec, if_pos hesc]
    rfl
  · rw [hexec, if_neg hesc]
    rfl

/-! ### The round trip -/

/-- `UNSTUFF` answers what the function `unstuff` gives on its two operands. -/
theorem exec_unstuff_of_unstuff {s : State} {b : Byte} {k : Nat} (h : unstuff s.params s.unW0 s.unW1 = (b, k)) :
    exec .unstuff s = .next ((s.setUnstuffed b (BitVec.ofNat 2 k)).setStatus 0x00#8) := by
  simp [exec, execUnstuff, h]

/-- Settles O24: a reserved byte is stuffed behind `ESC` and unstuffed from there; any other byte is no `ESC`, so it is
stuffed and unstuffed as itself. -/
theorem unstuffInvertsStuff : Obligations.UnstuffInvertsStuff := by
  refine ⟨fun p b w => ?functions, fun s t u ht hparams hw0 hw1 => ?commands⟩
  case functions =>
    obtain ⟨hrsv, hstuff, hlen⟩ | ⟨hplain, hstuff, hlen⟩ := stuff_cases p b
    · refine ⟨fun _ => ⟨p.esc, b, hstuff, ?_, hlen⟩, by simp [hrsv]⟩
      rw [unstuff_esc, hlen]
    · refine ⟨by simp [hplain], fun _ => ⟨b, hstuff, ?_, hlen⟩⟩
      rw [unstuff_of_ne_esc (ne_esc_of_not_isRsv hplain), hlen]
  case commands =>
    obtain ⟨-, hs⟩ | ⟨hplain, hs⟩ := exec_stuff_cases s
    · obtain rfl : (s.setStuffed s.params.esc s.byteIn 2#2).setStatus 0x00#8 = t := by simpa [hs] using ht
      have hu : unstuff u.params u.unW0 u.unW1 = (s.byteIn, 2) := by
        rw [hparams, hw0, hw1 rfl]
        exact unstuff_esc _ _
      exact ⟨_, exec_unstuff_of_unstuff hu, rfl, rfl⟩
    · obtain rfl : (s.setStuffed s.byteIn 0x00#8 1#2).setStatus 0x00#8 = t := by simpa [hs] using ht
      have hu : unstuff u.params u.unW0 u.unW1 = (s.byteIn, 1) := by
        rw [hparams, hw0]
        exact unstuff_of_ne_esc (ne_esc_of_not_isRsv hplain) _
      exact ⟨_, exec_unstuff_of_unstuff hu, rfl, rfl⟩

end Sys2Proof.Machine

/-! Proofs of the family of 42_encode.md: the algorithm of `ENCODE` (R110, R111, R118), the length overflow (R112), the
ignored checksum (R114), and the place of the length field (R116). -/

namespace Sys2Proof.Machine

/-! ### The operands of `ENCODE`, in the words of the manual -/

theorem present_iff (ctl : BitVec 1) : present ctl = true ↔ ctl = 1#1 := by
  revert ctl
  decide

theorem State.encodeHandles_iff {s : State} :
    s.encodeHandles = true ↔ s.dstCtl = 1#1 ∧ (s.frPlen = 0x00#8 ∨ s.frPview.getLsbD 0 = true) := by
  simp [State.encodeHandles, present_iff, viewValid]

theorem wireLen_eq_sum_length (p : Params) (bs : List Byte) :
    wireLen p bs = (bs.map fun b => (stuff p b).length).sum := by
  simp [wireLen]

theorem transmittedChecksum_eq_ite (p : Params) (f c : Byte) :
    transmittedChecksum p f c = if f &&& p.flagIgnchk ≠ 0x00#8 then 0x00#8 else c := by
  simp [transmittedChecksum, ignoreChecksum]

/-! ### The tests of `ENCODE`, beside `State.frameToEmit_eq_lengthOverflow` and `State.frameToEmit_eq_bufferTooSmall` -/

section
variable {s : State}

theorem State.frameToEmit_eq_invalidHandle : s.frameToEmit = .error .invalidHandle ↔ s.encodeHandles = false := by
  rw [State.frameToEmit_eq]
  split_ifs with hhandles <;> simp [hhandles]

/-- Passing the three tests is enough: the converse of `State.frameToEmit_ok`. -/
theorem State.frameToEmit_of_tests (hhandles : s.encodeHandles = true) (hlen : wireLen s.params s.payload ≤ 255)
    (hcap : (wireFrame s.params s.frType s.frFlags s.frChk s.payload).length ≤ s.dstCap) :
    s.frameToEmit = .ok (wireFrame s.params s.frType s.frFlags s.frChk s.payload) := by
  rw [State.frameToEmit_eq, if_neg (by simp [hhandles]), if_neg (by omega), if_neg (by omega)]

end

/-! ### The answer of `ENCODE` -/

/-- Emitting a frame leaves every field but `DST`, `WRITTEN` and `STATUS`, whatever `DST` then holds. -/
theorem State.emitFrame_frame (s : State) (fr : List Byte) :
    s.emitFrame fr = { s with dst := (s.emitFrame fr).dst, written := fr.length, status := 0x00#8 } := rfl

/-- Settles O26: each clause is one answer of the tests, and the frame of the clause is the one they emit. -/
theorem encodeFollowsItsAlgorithm : Obligations.EncodeFollowsItsAlgorithm := by
  intro s space p wlen c frame handles
  have hhandles : handles ↔ s.encodeHandles = true := State.encodeHandles_iff.symm
  have hwlen : wlen = wireLen s.params s.payload := (wireLen_eq_sum_length s.params s.payload).symm
  have hframe : frame = wireFrame s.params s.frType s.frFlags s.frChk s.payload := by
    rw [wireFrame, transmittedChecksum_eq_ite, ← hwlen]
    rfl
  rw [hhandles, hwlen, hframe]
  refine ⟨fun h => ?handle, fun h hlong => ?overflow, fun h hlen hbig => ?capacity, fun h hlen hcap => ?success⟩
  case handle => exact exec_encode_of_error (State.frameToEmit_eq_invalidHandle.2 (Bool.not_eq_true _ ▸ h))
  case overflow => exact exec_encode_of_error (State.frameToEmit_eq_lengthOverflow.2 ⟨h, hlong⟩)
  case capacity => exact exec_encode_of_error (State.frameToEmit_eq_bufferTooSmall.2 ⟨h, hlen, hbig⟩)
  case success =>
    exact ⟨_, exec_encode_of_ok (State.frameToEmit_of_tests h hlen hcap), State.emitFrame_frame s _,
      State.emitFrame_memRead_dst s _⟩

/-! ### Parts of an emitted frame -/

/-- A part of the emitted frame lies in `DST` behind the bytes before it. -/
theorem State.emitFrame_shows_part (s : State) {fr pre part post : List Byte} (hfr : fr = pre ++ part ++ post) {j : Nat}
    (hj : j < part.length) : part[j]? = some ((s.emitFrame fr).memRead .dst (pre.length + j)) := by
  have hbyte : fr[pre.length + j]? = some part[j] := by
    rw [hfr, List.append_assoc, List.getElem?_append_right (Nat.le_add_right _ _), Nat.add_sub_cancel_left,
      List.getElem?_append_left hj, List.getElem?_eq_getElem hj]
  rw [State.emitFrame_memRead_dst, hbyte, List.getElem?_eq_getElem hj, Option.getD_some]

section
variable {s t : State} (h : exec .encode s = .next t) (hok : t.Ok)
include h hok

/-- The frame that a successful `ENCODE` has emitted. -/
theorem exec_encode_eq_emitFrame :
    wireLen s.params s.payload ≤ 255
      ∧ t = s.emitFrame (wireFrame s.params s.frType s.frFlags s.frChk s.payload) := by
  obtain ⟨fr, hfr, rfl⟩ := exec_encode_of_Ok h hok
  obtain ⟨-, hlen, rfl, -, -, -⟩ := State.frameToEmit_ok hfr
  exact ⟨hlen, rfl⟩

/-- The length field stands behind the start delimiter and the type and flags units (42_encode.md R116). -/
theorem exec_encode_lengthField {a : Nat} (ha : a = 1 + stuffLen s.params s.frType + stuffLen s.params s.frFlags) :
    t.memRead .dst a = s.params.esc ∧ t.memRead .dst (a + 1) = BitVec.ofNat 8 (wireLen s.params s.payload) := by
  obtain ⟨-, rfl⟩ := exec_encode_eq_emitFrame h hok
  have hpre : ([s.params.stx] ++ stuff s.params s.frType ++ stuff s.params s.frFlags).length = a := by
    simp only [List.length_append, List.length_singleton, length_stuff, ha]
  have hpart : ∀ j < 2, [s.params.esc, BitVec.ofNat 8 (wireLen s.params s.payload)][j]?
      = some ((s.emitFrame (wireFrame s.params s.frType s.frFlags s.frChk s.payload)).memRead .dst (a + j)) :=
    fun j hj => hpre ▸ s.emitFrame_shows_part (by simp only [wireFrame, List.append_assoc]; rfl) hj
  exact ⟨(Option.some.inj (hpart 0 (by omega))).symm, (Option.some.inj (hpart 1 (by omega))).symm⟩

end

/-- Settles O29: the two units before the length field have one or two bytes each. -/
theorem lengthFieldPlaceAndValue : Obligations.LengthFieldPlaceAndValue := by
  intro s t h hok a wlen
  have ha : a = 1 + stuffLen s.params s.frType + stuffLen s.params s.frFlags := by simp [a]
  have hwlen : wlen = wireLen s.params s.payload := length_stuffAll s.params s.payload
  have := stuffLen_pos s.params s.frType
  have := stuffLen_pos s.params s.frFlags
  have := stuffLen_le s.params s.frType
  have := stuffLen_le s.params s.frFlags
  rw [hwlen]
  exact ⟨by omega, by omega, (exec_encode_eq_emitFrame h hok).1, exec_encode_lengthField h hok ha⟩

/-- Settles O30: the flags unit follows the type unit, and the unit before the end delimiter carries the transmitted
checksum; emitting the frame writes neither register. -/
theorem ignoreChecksumAffectsTheWireOnly : Obligations.IgnoreChecksumAffectsTheWireOnly := by
  intro s t h hok c chkAt flagsAt
  obtain ⟨-, rfl⟩ := exec_encode_eq_emitFrame h hok
  have hc : transmittedChecksum s.params s.frFlags s.frChk = c := transmittedChecksum_eq_ite _ _ _
  refine ⟨fun j hj => ?checksum, fun j hj => ?flags, rfl, rfl⟩
  case checksum =>
    have hchkAt : chkAt = ([s.params.stx] ++ stuff s.params s.frType ++ stuff s.params s.frFlags
        ++ [s.params.esc, BitVec.ofNat 8 (wireLen s.params s.payload)] ++ stuffAll s.params s.payload).length := by
      dsimp only [chkAt]
      rw [State.emitFrame_written, length_wireFrame, hc]
      simp only [List.length_append, List.length_cons, List.length_nil, length_stuff, length_stuffAll]
      omega
    rw [hchkAt]
    exact s.emitFrame_shows_part (by rw [wireFrame, hc]) hj
  case flags =>
    have hflagsAt : flagsAt = ([s.params.stx] ++ stuff s.params s.frType).length := by simp [flagsAt, Nat.add_comm]
    rw [hflagsAt]
    exact s.emitFrame_shows_part (by simp only [wireFrame, List.append_assoc]; rfl) hj

/-! ### The length overflow -/

/-- A payload this long is not empty, so the handle test asks for its view (42_encode.md R111, R112). -/
theorem State.encodeHandles_iff_of_long {s : State} (hlong : 255 < wireLen s.params s.payload) :
    s.encodeHandles = true ↔ present s.dstCtl = true ∧ viewValid s.frPview = true := by
  have hn : s.frPlen ≠ 0x00#8 := by
    intro h0
    simp [State.payload, h0] at hlong
  simp [State.encodeHandles, hn]

section
variable {s t : State} {e : ErrorKind} (h : exec .encode s = .next t)
include h

/-- The status of `ENCODE` tells which test failed. -/
theorem exec_encode_status_eq_errorCode_iff : t.status = errorCode e ↔ s.frameToEmit = .error e := by
  refine ⟨frameToEmit_of_exec_encode_status h, fun he => ?_⟩
  obtain rfl : s.setStatus (errorCode e) = t := by simpa [exec_encode_of_error he] using h
  rfl

/-- An `ENCODE` that fails changes `STATUS` only (60_exceptions.md R163). -/
theorem exec_encode_of_status_eq_errorCode (he : t.status = errorCode e) : t = s.setStatus (errorCode e) := by
  have hs := exec_encode_of_error (frameToEmit_of_exec_encode_status h he)
  simpa [hs] using h.symm

theorem exec_encode_overflow_iff :
    t.status = 0x05#8 ↔
      present s.dstCtl = true ∧ viewValid s.frPview = true ∧ 255 < wireLen s.params s.payload := by
  calc t.status = errorCode .lengthOverflow
    _ ↔ s.encodeHandles = true ∧ 255 < wireLen s.params s.payload :=
        (exec_encode_status_eq_errorCode_iff h).trans State.frameToEmit_eq_lengthOverflow
    _ ↔ (present s.dstCtl = true ∧ viewValid s.frPview = true) ∧ 255 < wireLen s.params s.payload :=
        and_congr_left State.encodeHandles_iff_of_long
    _ ↔ _ := and_assoc

end

/-- Settles O28: the overflow is the second test's answer; as `R <= n`, it needs `n >= 128`, and a reserved byte makes
`R` positive. -/
theorem encodeLengthOverflow : Obligations.EncodeLengthOverflow := by
  intro s t h n R
  have hwire : wireLen s.params s.payload = n + R := by rw [wireLen_eq, State.length_payload]
  have hR : R ≤ n := (List.length_filter_le _ _).trans_eq s.length_payload
  have hiff : t.status = 0x05#8 ↔ present s.dstCtl = true ∧ viewValid s.frPview = true ∧ 255 < n + R :=
    hwire ▸ exec_encode_overflow_iff h
  refine ⟨hiff, fun h5 => ⟨?long, ?frame⟩, fun hdst hview hn hrsv => ?fires, fun hok => ?success⟩
  case long =>
    obtain ⟨-, -, hlong⟩ := hiff.1 h5
    omega
  case frame => exact exec_encode_of_status_eq_errorCode (e := .lengthOverflow) h h5
  case fires =>
    have hpos : 0 < R := List.length_filter_pos_iff.2 hrsv
    exact hiff.2 ⟨hdst, hview, by omega⟩
  case success =>
    have hlen : n + R ≤ 255 := hwire ▸ (exec_encode_eq_emitFrame h hok).1
    obtain ⟨-, hvalue⟩ := exec_encode_lengthField h hok rfl
    have hat : 2 + (stuff s.params s.frType).length + (stuff s.params s.frFlags).length
        = 1 + stuffLen s.params s.frType + stuffLen s.params s.frFlags + 1 := by
      simp only [length_stuff]
      omega
    refine ⟨hlen, ?_⟩
    rw [hat, hvalue, hwire, BitVec.toNat_ofNat, Nat.mod_eq_of_lt (by omega)]

end Sys2Proof.Machine

/-! Proofs of the family of 43_decode.md: the handle test and the start delimiter (R134), and the payload unit that
straddles the budget (R136). -/

namespace Sys2Proof.Machine

/-! ### The first two tests of `DECODE` -/

section
variable {s : State} {e : ErrorKind}

theorem State.frameInSource_of_absent (hctl : s.srcCtl = 0#1) : s.frameInSource = .error .invalidHandle := by
  have habsent : present s.srcCtl = false := by rw [hctl]; rfl
  rw [State.frameInSource, habsent, require_false, error_bind]

theorem State.frameInSource_of_present (hctl : s.srcCtl = 1#1) :
    s.frameInSource = parseFrame s.params s.srcByte s.scrCap := by
  rw [State.frameInSource, (present_iff _).2 hctl, require_true, ok_bind]

/-- With a source attached, `DECODE` reports the error of the parse. -/
theorem exec_decode_of_parse_error (hctl : s.srcCtl = 1#1)
    (h : parseFrame s.params s.srcByte s.scrCap = .error e) : exec .decode s = .next (s.setStatus (errorCode e)) :=
  exec_decode_of_error ((State.frameInSource_of_present hctl).trans h)

theorem State.srcByte_zero_eq_some {b : Byte} :
    s.srcByte 0 = some b ↔ s.srcLen ≠ 0 ∧ s.memRead .src 0 = b := by
  simp [State.srcByte, Nat.pos_iff_ne_zero]

end

/-- The parse reports `START_MISSING` at its first test only, on the literal byte (43_decode.md R134). -/
theorem parseFrame_eq_startMissing {p : Params} {rd : Nat → Option Byte} {cap : Nat} :
    parseFrame p rd cap = .error .startMissing ↔ rd 0 ≠ some p.stx := by
  cases h : parseFrame p rd cap with
  | ok d =>
    obtain ⟨_, _, _, _, hstx, -⟩ := parseFrame_eq_ok.1 h
    simp [hstx]
  | error e =>
    rcases parseFrame_error h with ⟨hstx, rfl⟩ | ⟨hstx, rfl | rfl⟩ <;> simp [hstx]

/-- Settles O34: the first two tests give the first two clauses; past them the parse reports `END_MISSING` or
`BUFFER_TOO_SMALL`, and a commit reports `OK`. -/
theorem decodeHandleAndStartDelimiter : Obligations.DecodeHandleAndStartDelimiter := by
  refine fun s => ⟨fun hctl => ?handle, fun hctl hstart => ?start, fun hctl hlen hstx => ?later⟩
  case handle => exact exec_decode_of_error (State.frameInSource_of_absent hctl)
  case start =>
    have hbyte : s.srcByte 0 ≠ some s.params.stx := by
      rw [Ne, State.srcByte_zero_eq_some]
      exact fun ⟨hlen, hstx⟩ => hstart.elim hlen (· hstx)
    exact exec_decode_of_parse_error hctl (parseFrame_eq_startMissing.2 hbyte)
  case later =>
    have hbyte : s.srcByte 0 = some s.params.stx := State.srcByte_zero_eq_some.2 ⟨hlen, hstx⟩
    rcases exec_decode_cases s with ⟨e, he, h⟩ | ⟨d, hd, -⟩
    · rw [State.frameInSource_of_present hctl] at he
      refine ⟨_, h, ?_⟩
      rcases parseFrame_error he with ⟨hmissing, -⟩ | ⟨-, rfl | rfl⟩
      · exact absurd hbyte hmissing
      · simp [errorCode]
      · simp [errorCode]
    · exact ⟨_, exec_decode_ok hd, by simp⟩

/-! ### Readable bytes from a cursor on -/

/-- The bounded read gives these bytes at the cursor and after it. -/
def ReadsAt (rd : Nat → Option Byte) (rp : Nat) (bs : List Byte) : Prop :=
  match bs with
  | [] => True
  | b :: rest => rd rp = some b ∧ ReadsAt rd (rp + 1) rest

section
variable {p : Params} {rd : Nat → Option Byte} {rp : Nat}

@[simp] theorem readsAt_nil : ReadsAt rd rp [] := trivial

@[simp] theorem readsAt_cons {b : Byte} {bs : List Byte} :
    ReadsAt rd rp (b :: bs) ↔ rd rp = some b ∧ ReadsAt rd (rp + 1) bs := Iff.rfl

theorem readsAt_append {as bs : List Byte} :
    ReadsAt rd rp (as ++ bs) ↔ ReadsAt rd rp as ∧ ReadsAt rd (rp + as.length) bs := by
  induction as generalizing rp with
  | nil => simp
  | cons a as ih => simp [ih, and_assoc, Nat.add_assoc, Nat.add_comm 1]

theorem readsAt_iff {bs : List Byte} : ReadsAt rd rp bs ↔ ∀ k < bs.length, rd (rp + k) = bs[k]? := by
  induction bs generalizing rp with
  | nil => simp
  | cons b bs ih =>
    rw [readsAt_cons, ih, List.length_cons, Nat.forall_lt_succ_left]
    simp [Nat.add_assoc, Nat.add_comm 1]

/-- Bytes that `SRC` holds within `SRC_LEN` are read from cursor 0 on (43_decode.md R131). -/
theorem State.Shows.readsAt {s : State} {bs : List Byte} (h : s.Shows .src bs) (hlen : bs.length ≤ s.srcLen) :
    ReadsAt s.srcByte 0 bs := by
  refine readsAt_iff.2 fun k hk => ?_
  rw [Nat.zero_add, h k hk, State.srcByte, if_pos (by omega)]

/-! ### Units, fields and payload units that are read whole -/

theorem unitAt_of_wireUnit {w : List Byte} {v : Byte} (h : WireUnit p w v) (hrd : ReadsAt rd rp w) :
    unitAt p rd rp = some (v, w.length) := by
  obtain ⟨rfl, hv⟩ | rfl := h
  · exact unitAt_eq_some.2 (.inl ⟨rfl, hrd.1, hv⟩)
  · exact unitAt_eq_some.2 (.inr ⟨rfl, hrd.1, hrd.2.1⟩)

theorem takeField_of_wireUnit {w : List Byte} {v : Byte} (h : WireUnit p w v) (hrd : ReadsAt rd rp w) :
    takeField p rd rp = .ok (v, rp + w.length) :=
  takeField_eq_ok.2 ⟨_, unitAt_of_wireUnit h hrd, rfl⟩

/-- The payload loop takes a unit that fits the budget whole. -/
theorem takePayload_of_wireUnit {w : List Byte} {v : Byte} (h : WireUnit p w v) (hrd : ReadsAt rd rp w) (left : Nat) :
    takePayload p rd (w.length + left) rp = collect v (takePayload p rd left (rp + w.length)) := by
  have hunit := unitAt_of_wireUnit h hrd
  rw [Nat.add_comm w.length left]
  rcases length_wireUnit h with hw | hw <;> rw [hw] at hunit ⊢
  · exact takePayload_one hunit
  · exact takePayload_two hunit

/-- The payload loop takes a sequence of units, and goes on with the budget left after them. -/
theorem takePayload_of_units {us : List (List Byte × Byte)} (hus : UnitsOk p us) (hrd : ReadsAt rd rp (unitBytes us))
    (left : Nat) :
    takePayload p rd ((unitBytes us).length + left) rp
      = (unitValues us).foldr collect (takePayload p rd left (rp + (unitBytes us).length)) := by
  induction us generalizing rp with
  | nil => simp [unitBytes, unitValues]
  | cons u us ih =>
    obtain ⟨hu, hrest⟩ := List.forall_mem_cons.1 hus
    have hbytes : unitBytes (u :: us) = u.1 ++ unitBytes us := List.flatMap_cons
    rw [hbytes, readsAt_append] at hrd
    rw [hbytes, List.length_append, Nat.add_assoc, takePayload_of_wireUnit hu hrd.1, ih hrest hrd.2, Nat.add_assoc]
    rfl

@[simp] theorem foldr_collect_error (vs : List Byte) (e : ErrorKind) : vs.foldr collect (.error e) = .error e := by
  induction vs with
  | nil => rfl
  | cons v vs ih => rw [List.foldr_cons, ih, collect]

/-- An `ESC` at the last byte of the budget begins no unit that fits, whatever follows it (43_decode.md R136). -/
theorem takePayload_of_esc (h : rd rp = some p.esc) : takePayload p rd 1 rp = .error .endMissing := by
  rcases takePayload_succ_cases p rd 0 rp with herr | ⟨v, hunit, -⟩ | ⟨_, _, hleft, -⟩
  · exact herr
  · rcases unitAt_eq_some.1 hunit with ⟨-, hv, hne⟩ | ⟨hlen, -⟩
    · exact absurd (Option.some.inj (hv.symm.trans h)) hne
    · omega
  · omega

/-! ### The unit that straddles the payload budget -/

/-- A payload loop that fails behind a header read whole gives its error to the parse. -/
theorem parseFrame_of_payload_error {wt wf wl : List Byte} {t f cnt : Byte} {cap : Nat} {e : ErrorKind}
    (ht : WireUnit p wt t) (hf : WireUnit p wf f) (hl : WireUnit p wl cnt)
    (hrd : ReadsAt rd 0 ([p.stx] ++ wt ++ wf ++ wl))
    (hpayload : takePayload p rd cnt.toNat ([p.stx] ++ wt ++ wf ++ wl).length = .error e) :
    parseFrame p rd cap = .error e := by
  simp only [readsAt_append, List.length_append, List.length_singleton, Nat.zero_add] at hrd hpayload
  obtain ⟨⟨⟨⟨hstx, -⟩, hrt⟩, hrf⟩, hrl⟩ := hrd
  simp [parseFrame, hstx, takeField_of_wireUnit ht hrt, takeField_of_wireUnit hf hrf, takeField_of_wireUnit hl hrl,
    hpayload]

end

/-- Settles O38: the payload units leave a budget of one byte, at which the `ESC` stands; the scratch capacity is not
tested. -/
theorem straddlingUnitIsEndMissing : Obligations.StraddlingUnitIsEndMissing := by
  intro s wt wf wl t f cnt us ht hf hl hus hcnt head hctl hlen hshows
  obtain ⟨hread, hesc, -⟩ := readsAt_append.1 (hshows.readsAt hlen)
  obtain ⟨hheader, hunits⟩ := readsAt_append.1 hread
  simp only [Nat.zero_add] at hesc hunits
  have hpayload : takePayload s.params s.srcByte cnt.toNat ([s.params.stx] ++ wt ++ wf ++ wl).length
      = .error .endMissing := by
    rw [← hcnt, takePayload_of_units hus hunits, takePayload_of_esc (by rwa [← List.length_append]),
      foldr_collect_error]
  exact exec_decode_of_parse_error hctl (parseFrame_of_payload_error ht hf hl hheader hpayload)

end Sys2Proof.Machine

/-! Proofs of the family of 44_frame_helpers.md: `EMPTY_FRAME` (R150) and the rejections and the effect of
`ATTACH_PAYLOAD` (R151). -/

namespace Sys2Proof.Machine

/-- A bound view in the words of the manual: `VALID` set and `SPACE` copied (44_frame_helpers.md R151). -/
theorem boundView_eq_ite (view : BitVec 2) :
    boundView view = if view.getLsbD 1 = true then 3#2 else 1#2 := by
  revert view
  decide

/-- Settles O43: the state that `exec_emptyFrame` answers, written out field by field. -/
theorem emptyFrameGivesTheDefaultFrame : Obligations.EmptyFrameGivesTheDefaultFrame := exec_emptyFrame

/-- Settles O44: each clause is one answer of the two tests, and the view of the last is `boundView`. -/
theorem attachPayloadRebindsOrRejects : Obligations.AttachPayloadRebindsOrRejects := by
  refine fun s => ⟨exec_attachPayload_of_null, exec_attachPayload_of_empty, fun hvalid hn => ?bound⟩
  case bound =>
    rw [← boundView_eq_ite]
    exact exec_attachPayload_of_bound hvalid hn

end Sys2Proof.Machine

/-! Proofs of the family of 60_exceptions.md: the status codes of each command (R160), and the failed command that
changes `STATUS` only (R163). -/

namespace Sys2Proof.Machine

/-- The errors that `DECODE` can report (43_decode.md R141), beside `State.frameToEmit_error`. -/
theorem State.frameInSource_error {s : State} {e : ErrorKind} (h : s.frameInSource = .error e) :
    e = .invalidHandle ∨ e = .startMissing ∨ e = .endMissing ∨ e = .bufferTooSmall := by
  rw [State.frameInSource, bind_eq_error, require_eq_error] at h
  rcases h with ⟨-, rfl⟩ | ⟨-, -, hparse⟩
  · exact .inl rfl
  · rcases parseFrame_error hparse with ⟨-, rfl⟩ | ⟨-, he⟩
    · exact .inr (.inl rfl)
    · exact .inr (.inr he)

/-- The two ways a command ends: in `OK`, or by raising one of its own errors, with nothing else done (60_exceptions.md
R160, R163). -/
theorem exec_ok_or_raises (i : Instr) (s : State) :
    (∃ t, exec i s = .next t ∧ t.Ok)
      ∨ ∃ e, errorCode e ∈ raisableCodes i ∧ exec i s = .next (s.setStatus (errorCode e)) := by
  cases i with
  | isEsc | isStx | isEtx | isRsv | unstuff | emptyFrame => exact .inl ⟨_, rfl, rfl⟩
  | stuff => rcases exec_stuff_cases s with ⟨-, h⟩ | ⟨-, h⟩ <;> exact .inl ⟨_, h, rfl⟩
  | encode =>
    rcases exec_encode_cases s with ⟨e, he, h⟩ | ⟨fr, -, h⟩
    · refine .inr ⟨e, ?_, h⟩
      rcases State.frameToEmit_error he with rfl | rfl | rfl <;> decide
    · exact .inl ⟨_, h, rfl⟩
  | decode =>
    rcases exec_decode_cases s with ⟨e, he, h⟩ | ⟨d, hd, -⟩
    · refine .inr ⟨e, ?_, h⟩
      rcases State.frameInSource_error he with rfl | rfl | rfl | rfl <;> decide
    · exact .inl ⟨_, exec_decode_ok hd, rfl⟩
  | attachPayload =>
    rcases exec_attachPayload_cases s with ⟨-, h⟩ | ⟨-, -, h⟩ | ⟨-, -, h⟩
    · exact .inr ⟨.invalidHandle, by decide, h⟩
    · exact .inr ⟨.bufferTooSmall, by decide, h⟩
    · exact .inl ⟨_, h, rfl⟩

/-- `exec_ok_or_raises`, read off the next state. -/
theorem exec_next_cases {i : Instr} {s t : State} (h : exec i s = .next t) :
    t.Ok ∨ ∃ e, errorCode e ∈ raisableCodes i ∧ t = s.setStatus (errorCode e) := by
  rcases exec_ok_or_raises i s with ⟨u, hu, hok⟩ | ⟨e, he, hu⟩
  · obtain rfl : u = t := by simpa [hu] using h
    exact .inl hok
  · exact .inr ⟨e, he, by simpa [hu] using h.symm⟩

/-- Issuing a code that does not decode raises `ILLEGAL_COMMAND`; beside `act_issue_of_decode`. -/
theorem act_issue_of_decode_error {c : Byte} {e : DecodeError} (h : decode c = .error e) (s : State) :
    act (issue c) s = .next (s.setStatus 0x06#8) := by
  simp [act, h]

/-- Settles O46: a command that does not end in `OK` has only raised an error, and an illegal code raises the sixth. -/
theorem failedCommandChangesStatusOnly : Obligations.FailedCommandChangesStatusOnly := by
  refine ⟨fun i s t h hfail => ?command, fun s c rest e hp hd => ?illegal⟩
  case command =>
    rcases exec_next_cases h with hok | ⟨e, -, rfl⟩
    · exact absurd hok hfail
    · rfl
  case illegal =>
    calc step s = act (issue c) (s.setPending rest) := step_of_pending hp
      _ = .next ((s.setPending rest).setStatus 0x06#8) := act_issue_of_decode_error hd _

/-- Settles O47: `STATUS` is `OK` or the code of the error that the command, or the illegal code, has raised. -/
theorem statusCodesOfEachCommand : Obligations.StatusCodesOfEachCommand := by
  refine ⟨fun i s t h => ?command, fun s c rest t hp hstep => ?bound, rfl, rfl, rfl, rfl, rfl, rfl, rfl⟩
  case command =>
    rcases exec_next_cases h with hok | ⟨e, he, rfl⟩
    · exact .inl hok
    · exact .inr he
  case bound =>
    have hact : act (issue c) (s.setPending rest) = .next t := (step_of_pending hp).symm.trans hstep
    cases hd : decode c with
    | ok i =>
      rw [act_issue_of_decode hd] at hact
      rcases exec_next_cases hact with hok | ⟨e, -, rfl⟩
      · simp [show t.status = 0x00#8 from hok]
      · exact errorCode_toNat_le e
    | error e =>
      obtain rfl : (s.setPending rest).setStatus 0x06#8 = t := by
        simpa [act_issue_of_decode_error hd] using hact
      exact errorCode_toNat_le .illegalCommand

end Sys2Proof.Machine

/-! Proofs of the family of the whole machine: legal states, the runs of host actions, the frame and the footprint of
every command, and the two directions of the codec. First, legal states: reset gives one, and every step keeps them
(`State.Inv`). -/

namespace Sys2Proof.Machine

/-- The commit of a frame that the source buffer holds, as one sequence of updates (43_decode.md R139). -/
theorem State.commitFrame_of_frameInSource {s : State} {d : DecodedFrame} (hd : s.frameInSource = .ok d) :
    s.commitFrame d
      = (((s.setMem .scr ((s.mem .scr).writeBytes 0 d.payload)).setHeader d.type d.flags d.chk).setPayload
          (BitVec.ofNat 8 d.payload.length) (if d.cnt = 0x00#8 then 0#2 else 3#2)).setStatus 0x00#8 := by
  obtain ⟨-, -, hempty⟩ := parseFrame_payload_length (State.frameInSource_eq_ok.1 hd).2
  exact State.commitFrame_eq hempty

/-! ### What each update asks of the invariant -/

section
variable {s : State} (h : s.Inv)
include h

theorem State.Inv.setStatus {c : Byte} (hc : c.toNat ≤ 6) : (s.setStatus c).Inv :=
  ⟨h.params, hc, h.stuffed, h.unstuffed, h.written, h.counts, fun sp => by simpa using h.memories sp⟩

theorem State.Inv.setPred (b : BitVec 1) : (s.setPred b).Inv :=
  ⟨h.params, h.status, h.stuffed, h.unstuffed, h.written, h.counts, fun sp => by simpa using h.memories sp⟩

theorem State.Inv.setStuffed {b0 b1 : Byte} {n : BitVec 2} (hok : (s.setStuffed b0 b1 n).StuffedOk) :
    (s.setStuffed b0 b1 n).Inv :=
  ⟨h.params, h.status, hok, h.unstuffed, h.written, h.counts, fun sp => by simpa using h.memories sp⟩

theorem State.Inv.setUnstuffed {v : Byte} {k : BitVec 2} (hok : (s.setUnstuffed v k).UnstuffedOk) :
    (s.setUnstuffed v k).Inv :=
  ⟨h.params, h.status, h.stuffed, hok, h.written, h.counts, fun sp => by simpa using h.memories sp⟩

theorem State.Inv.setHeader (t f c : Byte) : (s.setHeader t f c).Inv :=
  ⟨h.params, h.status, h.stuffed, h.unstuffed, h.written, h.counts, fun sp => by simpa using h.memories sp⟩

theorem State.Inv.setPayload (n : Byte) (view : BitVec 2) : (s.setPayload n view).Inv :=
  ⟨h.params, h.status, h.stuffed, h.unstuffed, h.written, h.counts, fun sp => by simpa using h.memories sp⟩

theorem State.Inv.setPending (as : List HostAction) : (s.setPending as).Inv :=
  ⟨h.params, h.status, h.stuffed, h.unstuffed, h.written, h.counts, fun sp => by simpa using h.memories sp⟩

/-- A frame's length that does not exceed a capacity fits `WRITTEN`. -/
theorem State.Inv.setWritten {n : Nat} (hlow : 7 ≤ n) (hhigh : n ≤ 265) (hcap : n ≤ s.dstCap) :
    (s.setWritten n).Inv :=
  ⟨h.params, h.status, h.stuffed, h.unstuffed, .inr ⟨hlow, hhigh⟩,
    ⟨h.counts.1, hcap.trans_lt h.counts.1, h.counts.2.2⟩, fun sp => by simpa using h.memories sp⟩

theorem State.Inv.setMem {sp : MemSpace} {m : Memory} (hm : Memory.wf s.params.aw m = true) : (s.setMem sp m).Inv where
  params := by simpa using h.params
  status := by simpa using h.status
  stuffed := by simpa [State.StuffedOk] using h.stuffed
  unstuffed := by simpa [State.UnstuffedOk] using h.unstuffed
  written := by simpa using h.written
  counts := by simpa [State.CountsOk] using h.counts
  memories := fun sp' => by
    rw [State.setMem_mem, State.setMem_params]
    split
    · exact hm
    · exact h.memories sp'

/-- What a command writes to a memory is at most a frame of 265 bytes, and `AW >= 9` (00_scope.md R4). -/
theorem State.Inv.setMem_writeBytes (sp : MemSpace) {bs : List Byte} (hbs : bs.length ≤ 512) :
    (s.setMem sp ((s.mem sp).writeBytes 0 bs)).Inv := by
  obtain ⟨-, -, haw, -⟩ := h.params
  have hspace : 2 ^ 9 ≤ 2 ^ s.params.aw := Nat.pow_le_pow_right (by omega) haw
  exact h.setMem (Memory.wf_writeBytes (by omega) (h.memories sp))

theorem State.Inv.memWrite (sp : MemSpace) {a : Nat} (ha : a < 2 ^ s.params.aw) (v : Byte) : (s.memWrite sp a v).Inv :=
  h.setMem (Memory.wf_write v ha (h.memories sp))

/-- A register that the host can write is free, or counts modulo `2^CW`. -/
theorem State.Inv.writeReg (r : Reg) (v : Nat) : (s.writeReg r v).Inv where
  params := by simpa using h.params
  status := by simpa using h.status
  stuffed := by cases r <;> exact h.stuffed
  unstuffed := by cases r <;> exact h.unstuffed
  written := by simpa using h.written
  counts := by
    obtain ⟨hdst, hwritten, hsrc, hscr⟩ := h.counts
    cases r with
    | dstCap => exact ⟨s.countOf_lt v, hwritten, hsrc, hscr⟩
    | srcLen => exact ⟨hdst, hwritten, s.countOf_lt v, hscr⟩
    | scrCap => exact ⟨hdst, hwritten, hsrc, s.countOf_lt v⟩
    | _ => exact ⟨hdst, hwritten, hsrc, hscr⟩
  memories := fun sp => by simpa using h.memories sp

/-! ### Every command, action and step keeps legal states -/

theorem State.Inv.hostEffect (a : HostAction) : (s.hostEffect a).Inv := by
  cases a with
  | writeReg no v =>
    rw [State.hostEffect, State.writeRegNo]
    split
    · exact h.writeReg _ v
    · exact h
  | writeMem sp a v => exact h.memWrite sp (s.hostAddr_lt a) v
  | readReg no => exact h
  | readMem sp a => exact h

theorem State.Inv.classify (f : Params → Byte → Bool) : (s.classify f).Inv :=
  (h.setPred _).setStatus (by decide)

theorem State.Inv.emitFrame {fr : List Byte} (hfr : s.frameToEmit = .ok fr) : (s.emitFrame fr).Inv := by
  obtain ⟨-, -, -, hcap, hlow, hhigh⟩ := State.frameToEmit_ok hfr
  have hmem := h.setMem_writeBytes .dst (bs := fr) (by omega)
  exact (hmem.setWritten hlow hhigh (by simpa using hcap)).setStatus (by decide)

theorem State.Inv.commitFrame {d : DecodedFrame} (hd : s.frameInSource = .ok d) : (s.commitFrame d).Inv := by
  obtain ⟨-, hlen, -⟩ := parseFrame_payload_length (State.frameInSource_eq_ok.1 hd).2
  rw [State.commitFrame_of_frameInSource hd]
  exact (((h.setMem_writeBytes .scr (by omega)).setHeader _ _ _).setPayload _ _).setStatus (by decide)

/-- The two answers that need a reason: a reserved byte leaves `ESC` and itself, and a byte unstuffed alone is no
`ESC`. -/
theorem State.Inv.exec (i : Instr) : ∃ t, exec i s = .next t ∧ t.Inv := by
  cases i with
  | isEsc | isStx | isEtx | isRsv => exact ⟨_, rfl, h.classify _⟩
  | stuff =>
    rcases exec_stuff_cases s with ⟨hrsv, hs⟩ | ⟨hplain, hs⟩
    · exact ⟨_, hs, (h.setStuffed (.inr (.inr ⟨rfl, rfl, hrsv⟩))).setStatus (by decide)⟩
    · exact ⟨_, hs, (h.setStuffed (.inr (.inl ⟨rfl, hplain, rfl⟩))).setStatus (by decide)⟩
  | unstuff =>
    rcases exec_unstuff_cases s with ⟨-, hs⟩ | ⟨hne, hs⟩
    · exact ⟨_, hs, (h.setUnstuffed (.inr (.inr rfl))).setStatus (by decide)⟩
    · exact ⟨_, hs, (h.setUnstuffed (.inr (.inl ⟨rfl, hne⟩))).setStatus (by decide)⟩
  | encode =>
    rcases exec_encode_cases s with ⟨e, -, hs⟩ | ⟨fr, hfr, hs⟩
    · exact ⟨_, hs, h.setStatus (errorCode_toNat_le e)⟩
    · exact ⟨_, hs, h.emitFrame hfr⟩
  | decode =>
    rcases exec_decode_cases s with ⟨e, -, hs⟩ | ⟨d, hd, hs⟩
    · exact ⟨_, hs, h.setStatus (errorCode_toNat_le e)⟩
    · exact ⟨_, hs, h.commitFrame hd⟩
  | emptyFrame => exact ⟨_, rfl, ((h.setHeader _ _ _).setPayload _ _).setStatus (by decide)⟩
  | attachPayload =>
    rcases exec_attachPayload_cases s with ⟨-, hs⟩ | ⟨-, -, hs⟩ | ⟨-, -, hs⟩
    · exact ⟨_, hs, h.setStatus (by decide)⟩
    · exact ⟨_, hs, h.setStatus (by decide)⟩
    · exact ⟨_, hs, (h.setPayload _ _).setStatus (by decide)⟩

theorem State.Inv.act (a : HostAction) : ∃ t, act a s = .next t ∧ t.Inv := by
  rcases act_cases a s with ⟨_, i, -, -, ha⟩ | ⟨_, _, -, -, ha⟩ | ⟨-, ha⟩
  · obtain ⟨t, hs, ht⟩ := h.exec i
    exact ⟨t, ha.trans hs, ht⟩
  · exact ⟨_, ha, h.setStatus (by decide)⟩
  · exact ⟨_, ha, h.hostEffect a⟩

theorem State.Inv.step : ∃ t, step s = .next t ∧ t.Inv := by
  rcases step_cases s with ⟨-, hs⟩ | ⟨a, rest, -, hs⟩
  · exact ⟨s, hs, h⟩
  · obtain ⟨t, ha, ht⟩ := (h.setPending rest).act a
    exact ⟨t, hs.trans ha, ht⟩

end

/-- Settles O4: the step's answer is legal by `State.Inv.step`, and it is the only one. -/
theorem stepKeepsLegalStates : Obligations.StepKeepsLegalStates := by
  intro s t h ht
  obtain ⟨t', hs, ht'⟩ := h.step
  obtain rfl : t' = t := by simpa [hs] using ht
  exact ht'

/-! ### Reset -/

/-- Reset leaves no answer in the result registers and counts nothing (10_state.md R29). -/
theorem State.resetWith_inv {p : Params} {pay scr dst src : Memory} (acts : List HostAction) (hp : p.Valid)
    (hpay : Memory.wf p.aw pay = true) (hscr : Memory.wf p.aw scr = true) (hdst : Memory.wf p.aw dst = true)
    (hsrc : Memory.wf p.aw src = true) : (State.resetWith p pay scr dst src acts).Inv where
  params := hp
  status := Nat.zero_le 6
  stuffed := .inl ⟨rfl, rfl, rfl⟩
  unstuffed := .inl ⟨rfl, rfl⟩
  written := .inl rfl
  counts := ⟨Nat.two_pow_pos _, Nat.two_pow_pos _, Nat.two_pow_pos _, Nat.two_pow_pos _⟩
  memories := fun sp =>
    match sp with
    | .pay => hpay
    | .scr => hscr
    | .dst => hdst
    | .src => hsrc

/-- Settles O3: `State.reset` is `State.resetWith` at the default parameters and empty memories. -/
theorem resetIsLegal : Obligations.ResetIsLegal :=
  ⟨fun _ _ _ _ _ acts hp hpay hscr hdst hsrc => State.resetWith_inv acts hp hpay hscr hdst hsrc,
    State.resetWith_inv [] (by decide) rfl rfl rfl rfl, rfl⟩

theorem State.frameToEmit_of_absent {s : State} (hctl : s.dstCtl = 0#1) : s.frameToEmit = .error .invalidHandle :=
  State.frameToEmit_eq_invalidHandle.2 (by simp [State.encodeHandles, present, hctl])

/-- Settles O2: reset leaves both buffers absent, which the first test of each command reports. -/
theorem codecNeedsConfigurationAfterReset : Obligations.CodecNeedsConfigurationAfterReset := by
  intro p pay scr dst src acts s
  exact ⟨exec_encode_of_error (State.frameToEmit_of_absent rfl),
    exec_decode_of_error (State.frameInSource_of_absent rfl)⟩

end Sys2Proof.Machine

/-! The two directions of the codec: what `DECODE` accepts and rejects (43_decode.md), and the round trip. -/

namespace Sys2Proof.Machine

/-! ### Units, fields and payload units, from what was read to what stands there

The converses of `takeField_of_wireUnit` and `takePayload_of_units`. -/

section
variable {p : Params} {rd : Nat → Option Byte} {rp rp' : Nat}

theorem exists_wireUnit_of_unitAt {v : Byte} {k : Nat} (h : unitAt p rd rp = some (v, k)) :
    ∃ w, WireUnit p w v ∧ ReadsAt rd rp w ∧ k = w.length := by
  rcases unitAt_eq_some.1 h with ⟨rfl, hv, hne⟩ | ⟨rfl, hesc, hv⟩
  · exact ⟨[v], .inl ⟨rfl, hne⟩, ⟨hv, trivial⟩, rfl⟩
  · exact ⟨[p.esc, v], .inr rfl, ⟨hesc, hv, trivial⟩, rfl⟩

theorem exists_wireUnit_of_takeField {v : Byte} (h : takeField p rd rp = .ok (v, rp')) :
    ∃ w, WireUnit p w v ∧ ReadsAt rd rp w ∧ rp' = rp + w.length := by
  obtain ⟨k, hunit, rfl⟩ := takeField_eq_ok.1 h
  obtain ⟨w, hw, hrd, rfl⟩ := exists_wireUnit_of_unitAt hunit
  exact ⟨w, hw, hrd, rfl⟩

@[simp] theorem unitBytes_cons (u : List Byte × Byte) (us : List (List Byte × Byte)) :
    unitBytes (u :: us) = u.1 ++ unitBytes us := List.flatMap_cons

@[simp] theorem unitValues_cons (u : List Byte × Byte) (us : List (List Byte × Byte)) :
    unitValues (u :: us) = u.2 :: unitValues us := rfl

@[simp] theorem length_unitValues (us : List (List Byte × Byte)) : (unitValues us).length = us.length :=
  List.length_map _

/-- Put a unit before the units that the payload loop read after it. -/
theorem exists_units_cons {v : Byte} {k left : Nat} {q : List Byte} (hunit : unitAt p rd rp = some (v, k))
    (hrest : ∃ us, UnitsOk p us ∧ unitValues us = q ∧ (unitBytes us).length = left
      ∧ ReadsAt rd (rp + k) (unitBytes us)) :
    ∃ us, UnitsOk p us ∧ unitValues us = v :: q ∧ (unitBytes us).length = k + left
      ∧ ReadsAt rd rp (unitBytes us) := by
  obtain ⟨w, hw, hrd, rfl⟩ := exists_wireUnit_of_unitAt hunit
  obtain ⟨us, hus, rfl, rfl, hrds⟩ := hrest
  refine ⟨(w, v) :: us, List.forall_mem_cons.2 ⟨hw, hus⟩, rfl, ?_, ?_⟩
  · rw [unitBytes_cons, List.length_append]
  · exact readsAt_append.2 ⟨hrd, hrds⟩

/-- A payload loop that ends well has read units of exactly the budget (43_decode.md R135). -/
theorem exists_units_of_takePayload {budget : Nat} {q : List Byte} (h : takePayload p rd budget rp = .ok (q, rp')) :
    ∃ us, UnitsOk p us ∧ unitValues us = q ∧ (unitBytes us).length = budget ∧ ReadsAt rd rp (unitBytes us) := by
  induction budget using Nat.strong_induction_on generalizing rp q with
  | _ budget ih =>
    cases budget with
    | zero =>
      cases h
      exact ⟨[], List.forall_mem_nil _, rfl, rfl, trivial⟩
    | succ left =>
      rcases takePayload_succ_cases p rd left rp with herr | ⟨v, hunit, hloop⟩ | ⟨v, left', rfl, hunit, hloop⟩
      · rw [herr] at h
        cases h
      · obtain ⟨q', hq', rfl⟩ := collect_eq_ok.1 (hloop ▸ h)
        exact Nat.add_comm 1 left ▸ exists_units_cons hunit (ih left (by omega) hq')
      · obtain ⟨q', hq', rfl⟩ := collect_eq_ok.1 (hloop ▸ h)
        exact Nat.add_comm 2 left' ▸ exists_units_cons hunit (ih left' (by omega) hq')

@[simp] theorem foldr_collect_ok (vs q : List Byte) (rp : Nat) :
    vs.foldr collect (.ok (q, rp)) = .ok (vs ++ q, rp) := by
  induction vs with
  | nil => rfl
  | cons v vs ih => rw [List.foldr_cons, ih, collect, List.cons_append]

/-- The payload loop reads a region of whole units to its end. -/
theorem takePayload_of_region {us : List (List Byte × Byte)} (hus : UnitsOk p us)
    (hrd : ReadsAt rd rp (unitBytes us)) :
    takePayload p rd (unitBytes us).length rp = .ok (unitValues us, rp + (unitBytes us).length) := by
  have hloop := takePayload_of_units hus hrd 0
  rwa [Nat.add_zero, takePayload, foldr_collect_ok, List.append_nil] at hloop

end

/-! ### The parse up to the end of the payload region -/

/-- Steps 2 to 5 of `DECODE` succeed: the start delimiter, the three header fields and the payload region are read, with
the cursor at `rp` after them (43_decode.md R134, R133, R135). -/
def RegionRead (p : Params) (rd : Nat → Option Byte) (t f cnt : Byte) (q : List Byte) (rp : Nat) : Prop :=
  ∃ r1 r2 r3, rd 0 = some p.stx ∧ takeField p rd 1 = .ok (t, r1) ∧ takeField p rd r1 = .ok (f, r2)
    ∧ takeField p rd r2 = .ok (cnt, r3) ∧ takePayload p rd cnt.toNat r3 = .ok (q, rp)

section
variable {p : Params} {rd rd' : Nat → Option Byte} {t t' f f' cnt cnt' : Byte} {q q' : List Byte} {rp rp' cap : Nat}

/-- The parse is a function, so it reads at most one region. -/
theorem RegionRead.unique (h : RegionRead p rd t f cnt q rp) (h' : RegionRead p rd t' f' cnt' q' rp') :
    q' = q ∧ rp' = rp := by
  obtain ⟨r1, r2, r3, -, ht, hf, hl, hq⟩ := h
  obtain ⟨r1', r2', r3', -, ht', hf', hl', hq'⟩ := h'
  obtain ⟨-, rfl⟩ : t' = t ∧ r1' = r1 := by simpa [ht] using ht'.symm
  obtain ⟨-, rfl⟩ : f' = f ∧ r2' = r2 := by simpa [hf] using hf'.symm
  obtain ⟨rfl, rfl⟩ : cnt' = cnt ∧ r3' = r3 := by simpa [hl] using hl'.symm
  simpa [hq] using hq'.symm

theorem regionRead_of_units {wt wf wl : List Byte} {us : List (List Byte × Byte)} (ht : WireUnit p wt t)
    (hf : WireUnit p wf f) (hl : WireUnit p wl cnt) (hus : UnitsOk p us) (hcnt : (unitBytes us).length = cnt.toNat)
    (hrd : ReadsAt rd 0 ([p.stx] ++ wt ++ wf ++ wl ++ unitBytes us)) :
    RegionRead p rd t f cnt (unitValues us) ([p.stx] ++ wt ++ wf ++ wl ++ unitBytes us).length := by
  simp only [readsAt_append, List.length_append, List.length_singleton, Nat.zero_add] at hrd ⊢
  obtain ⟨⟨⟨⟨hstx, hrt⟩, hrf⟩, hrl⟩, hru⟩ := hrd
  exact ⟨_, _, _, hstx.1, takeField_of_wireUnit ht hrt, takeField_of_wireUnit hf hrf, takeField_of_wireUnit hl hrl,
    hcnt ▸ takePayload_of_region hus hru⟩

theorem RegionRead.exists_units (h : RegionRead p rd t f cnt q rp) :
    ∃ (wt wf wl : List Byte) (us : List (List Byte × Byte)),
      WireUnit p wt t ∧ WireUnit p wf f ∧ WireUnit p wl cnt ∧ UnitsOk p us ∧ (unitBytes us).length = cnt.toNat
      ∧ unitValues us = q
      ∧ ReadsAt rd 0 ([p.stx] ++ wt ++ wf ++ wl ++ unitBytes us)
      ∧ rp = ([p.stx] ++ wt ++ wf ++ wl ++ unitBytes us).length := by
  obtain ⟨r1, r2, r3, hstx, ht, hf, hl, hq⟩ := h
  obtain ⟨wt, hwt, hrt, rfl⟩ := exists_wireUnit_of_takeField ht
  obtain ⟨wf, hwf, hrf, rfl⟩ := exists_wireUnit_of_takeField hf
  obtain ⟨wl, hwl, hrl, rfl⟩ := exists_wireUnit_of_takeField hl
  obtain ⟨us, hus, rfl, hlen, hru⟩ := exists_units_of_takePayload hq
  obtain ⟨rfl, -, -⟩ := takePayload_ok hq
  refine ⟨wt, wf, wl, us, hwt, hwf, hwl, hus, hlen, rfl, ?_, ?_⟩
  · simp only [readsAt_append, readsAt_cons, readsAt_nil, List.length_append, List.length_singleton, Nat.zero_add,
      and_true]
    exact ⟨⟨⟨⟨hstx, hrt⟩, hrf⟩, hrl⟩, hru⟩
  · simp only [List.length_append, List.length_singleton, hlen]

theorem ReadsAt.mono {bs : List Byte} (hext : ∀ k b, rd k = some b → rd' k = some b) (h : ReadsAt rd rp bs) :
    ReadsAt rd' rp bs := by
  induction bs generalizing rp with
  | nil => trivial
  | cons b bs ih => exact ⟨hext _ _ h.1, ih h.2⟩

/-- A field read whole is read alike where more bytes are readable. -/
theorem takeField_mono {v : Byte} (hext : ∀ k b, rd k = some b → rd' k = some b)
    (h : takeField p rd rp = .ok (v, rp')) : takeField p rd' rp = .ok (v, rp') := by
  obtain ⟨w, hw, hrd, rfl⟩ := exists_wireUnit_of_takeField h
  exact takeField_of_wireUnit hw (hrd.mono hext)

/-- A region read whole is read alike where more bytes are readable. -/
theorem RegionRead.mono (hext : ∀ k b, rd k = some b → rd' k = some b) (h : RegionRead p rd t f cnt q rp) :
    RegionRead p rd' t f cnt q rp := by
  obtain ⟨wt, wf, wl, us, ht, hf, hl, hus, hcnt, rfl, hrd, rfl⟩ := h.exists_units
  exact regionRead_of_units ht hf hl hus hcnt (hrd.mono hext)

theorem RegionRead.start (h : RegionRead p rd t f cnt q rp) : rd 0 = some p.stx := by
  obtain ⟨_, _, _, hstx, -⟩ := h
  exact hstx

/-! ### The parse behind the payload region -/

/-- The parts of a frame whose last byte is any `e`, as the parse reads them. -/
theorem readsAt_frame {wt wf wl wc : List Byte} {c e : Byte} {us : List (List Byte × Byte)} (ht : WireUnit p wt t)
    (hf : WireUnit p wf f) (hl : WireUnit p wl cnt) (hc : WireUnit p wc c) (hus : UnitsOk p us)
    (hcnt : (unitBytes us).length = cnt.toNat)
    (hrd : ReadsAt rd 0 ([p.stx] ++ wt ++ wf ++ wl ++ unitBytes us ++ wc ++ [e])) :
    ∃ rp re, RegionRead p rd t f cnt (unitValues us) rp ∧ takeField p rd rp = .ok (c, re) ∧ rd re = some e
      ∧ re + 1 = ([p.stx] ++ wt ++ wf ++ wl ++ unitBytes us ++ wc ++ [e]).length
      ∧ rp = ([p.stx] ++ wt ++ wf ++ wl ++ unitBytes us).length := by
  obtain ⟨hread, hend, -⟩ := readsAt_append.1 hrd
  obtain ⟨hhead, hchk⟩ := readsAt_append.1 hread
  rw [List.length_append, Nat.zero_add] at hend
  rw [Nat.zero_add] at hchk
  exact ⟨_, _, regionRead_of_units ht hf hl hus hcnt hhead, takeField_of_wireUnit hc hchk, hend,
    by simp only [List.length_append, List.length_singleton], rfl⟩

theorem parseFrame_eq_ok_iff_region {d : DecodedFrame} :
    parseFrame p rd cap = .ok d ↔
      ∃ rp, RegionRead p rd d.type d.flags d.cnt d.payload rp ∧ d.payload.length ≤ cap
        ∧ ∃ re, takeField p rd rp = .ok (d.chk, re) ∧ rd re = some p.etx := by
  rw [parseFrame_eq_ok]
  constructor
  · rintro ⟨r1, r2, r3, rp, hstx, ht, hf, hl, hq, hcap, hend⟩
    exact ⟨rp, ⟨r1, r2, r3, hstx, ht, hf, hl, hq⟩, hcap, hend⟩
  · rintro ⟨rp, ⟨r1, r2, r3, hstx, ht, hf, hl, hq⟩, hcap, hend⟩
    exact ⟨r1, r2, r3, rp, hstx, ht, hf, hl, hq, hcap, hend⟩

/-- A payload that does not fit is reported before anything behind its region is looked at (43_decode.md R137, R141). -/
theorem RegionRead.parseFrame_of_lt (h : RegionRead p rd t f cnt q rp) (hcap : cap < q.length) :
    parseFrame p rd cap = .error .bufferTooSmall := by
  obtain ⟨r1, r2, r3, hstx, ht, hf, hl, hq⟩ := h
  simp [parseFrame, hstx, ht, hf, hl, hq, decide_eq_false (Nat.not_le.2 hcap)]

/-- The parse reports `BUFFER_TOO_SMALL` only of a region that it has read. -/
theorem exists_region_of_bufferTooSmall (h : parseFrame p rd cap = .error .bufferTooSmall) :
    ∃ t f cnt q rp, RegionRead p rd t f cnt q rp ∧ cap < q.length := by
  unfold parseFrame at h
  simp only [bind_eq_error, require_eq_error, require_eq_ok, beq_iff_eq, decide_eq_false_iff_not, Nat.not_le,
    Prod.exists, exists_const] at h
  rcases h with ⟨-, h⟩ | ⟨hstx, h | ⟨t, r1, ht, h | ⟨f, r2, hf, h | ⟨cnt, r3, hl, h | ⟨q, rp, hq, ⟨hcap, -⟩
    | ⟨-, h | ⟨_, _, -, ⟨-, h⟩ | ⟨-, h⟩⟩⟩⟩⟩⟩⟩⟩
  · cases h
  · cases takeField_error h
  · cases takeField_error h
  · cases takeField_error h
  · cases takePayload_error h
  · exact ⟨t, f, cnt, q, rp, ⟨r1, r2, r3, hstx, ht, hf, hl, hq⟩, hcap⟩
  · cases takeField_error h
  · cases h
  · cases h

/-- The parse reports `END_MISSING` where no region that fits is followed by a checksum unit and the end delimiter. -/
theorem parseFrame_eq_endMissing (hstx : rd 0 = some p.stx)
    (hregion : ∀ t f cnt q rp, RegionRead p rd t f cnt q rp →
      q.length ≤ cap ∧ ∀ c re, takeField p rd rp = .ok (c, re) → rd re ≠ some p.etx) :
    parseFrame p rd cap = .error .endMissing := by
  cases h : parseFrame p rd cap with
  | ok d =>
    obtain ⟨rp, hread, -, re, hc, hetx⟩ := parseFrame_eq_ok_iff_region.1 h
    exact absurd hetx ((hregion _ _ _ _ _ hread).2 _ _ hc)
  | error e =>
    rcases parseFrame_error h with ⟨hne, -⟩ | ⟨-, rfl | rfl⟩
    · exact absurd hstx hne
    · rfl
    · obtain ⟨t, f, cnt, q, rp, hread, hcap⟩ := exists_region_of_bufferTooSmall h
      exact absurd (hregion _ _ _ _ _ hread).1 (by omega)

end

/-! ### Rejections behind the header -/

/-- Settles O39: the region is read, and its payload does not fit. -/
theorem payloadLargerThanScratchIsRejected : Obligations.PayloadLargerThanScratchIsRejected := by
  intro s wt wf wl t f cnt us ht hf hl hus hcnt head hctl hlen hshows hcap
  have hread := regionRead_of_units ht hf hl hus hcnt (hshows.readsAt hlen)
  exact exec_decode_of_parse_error hctl (hread.parseFrame_of_lt (by rwa [length_unitValues]))

/-- Settles O40: the region read is the one that stands there, and so is the checksum unit behind it. -/
theorem wrongEndDelimiterIsEndMissing : Obligations.WrongEndDelimiterIsEndMissing := by
  intro s wt wf wl wc t f cnt c e us ht hf hl hc hus hcnt he wire hctl hlen hshows hcap
  obtain ⟨rp, re, hregion, hchk, hend, -⟩ := readsAt_frame ht hf hl hc hus hcnt (hshows.readsAt hlen)
  refine exec_decode_of_parse_error hctl (parseFrame_eq_endMissing hregion.start fun _ _ _ _ _ h => ?_)
  obtain ⟨rfl, rfl⟩ := hregion.unique h
  refine ⟨by rwa [length_unitValues], fun c' re' hc' => ?_⟩
  cases hchk.symm.trans hc'
  simpa [hend] using he

theorem State.lt_srcLen_of_srcByte {s : State} {k : Nat} {b : Byte} (h : s.srcByte k = some b) : k < s.srcLen := by
  unfold State.srcByte at h
  split at h
  · assumption
  · cases h

theorem State.srcLen_of_readsAt {s : State} {bs : List Byte} (h : ReadsAt s.srcByte 0 bs) : bs.length ≤ s.srcLen := by
  cases hn : bs.length with
  | zero => exact Nat.zero_le _
  | succ k =>
    have hlast : s.srcByte (0 + k) = bs[k]? := readsAt_iff.1 h k (by omega)
    rw [Nat.zero_add, List.getElem?_eq_getElem (by omega)] at hlast
    exact State.lt_srcLen_of_srcByte hlast

/-- Every readable byte is one of the bytes that stand there. -/
theorem State.Shows.getElem?_of_srcByte {s : State} {bs : List Byte} (h : s.Shows .src bs)
    (hlen : s.srcLen ≤ bs.length) (k : Nat) (b : Byte) (hk : s.srcByte k = some b) : bs[k]? = some b := by
  have hlt := State.lt_srcLen_of_srcByte hk
  rw [h k (by omega), ← hk, State.srcByte, if_pos hlt]

/-- Settles O37: a reader of the whole frame extends the bounded read, so whatever region and checksum unit are read are
those of the frame. The region then ends within `SRC_LEN`, so its payload fits, and the end delimiter does not. -/
theorem truncatedFrameIsEndMissing : Obligations.TruncatedFrameIsEndMissing := by
  intro s wt wf wl wc t f cnt c us ht hf hl hc hus hcnt wire hctl hpos hshort hshows hcap
  have hext := hshows.getElem?_of_srcByte hshort.le
  obtain ⟨rp, re, hregion, hchk, -, hre, rfl⟩ :=
    readsAt_frame (rd := (wire[·]?)) ht hf hl hc hus hcnt (readsAt_iff.2 fun k _ => by rw [Nat.zero_add])
  have hstx : s.srcByte 0 = some s.params.stx :=
    State.srcByte_zero_eq_some.2 ⟨by omega, (Option.some.inj (hshows 0 (by simp [wire]))).symm⟩
  refine exec_decode_of_parse_error hctl (parseFrame_eq_endMissing hstx fun _ _ _ _ _ h => ?_)
  obtain ⟨rfl, rfl⟩ := hregion.unique (h.mono hext)
  refine ⟨?fits, fun c' re' hc' hetx => ?beyond⟩
  case fits =>
    obtain ⟨_, _, _, _, -, -, -, -, -, -, hrd, hrp⟩ := h.exists_units
    rw [length_unitValues]
    exact hcap (hrp ▸ State.srcLen_of_readsAt hrd)
  case beyond =>
    cases hchk.symm.trans (takeField_mono hext hc')
    have hlast : re + 1 = wire.length := hre
    have hlt := State.lt_srcLen_of_srcByte hetx
    omega

/-! ### Acceptance -/

section
variable {s : State} {d : DecodedFrame}

/-- The commit writes the payload over `SCR` from address 0 (43_decode.md R139). -/
theorem State.commitFrame_memRead_scr (hd : s.frameInSource = .ok d) (a : Nat) :
    (s.commitFrame d).memRead .scr a = (d.payload[a]?).getD (s.memRead .scr a) := by
  rw [State.commitFrame_of_frameInSource hd]
  simp [State.memRead_writeBytes]

theorem State.commitFrame_registers (hd : s.frameInSource = .ok d) :
    (s.commitFrame d).Ok ∧ (s.commitFrame d).frType = d.type ∧ (s.commitFrame d).frFlags = d.flags
      ∧ (s.commitFrame d).frChk = d.chk ∧ (s.commitFrame d).frPview = if d.cnt = 0x00#8 then 0#2 else 3#2 := by
  rw [State.commitFrame_of_frameInSource hd]
  exact ⟨rfl, rfl, rfl, rfl, rfl⟩

theorem State.commitFrame_frPlen (hd : s.frameInSource = .ok d) :
    (s.commitFrame d).frPlen.toNat = d.payload.length := by
  obtain ⟨-, hlen, -⟩ := parseFrame_payload_length (State.frameInSource_eq_ok.1 hd).2
  rw [State.commitFrame_of_frameInSource hd]
  simp only [State.setStatus_frPlen, State.setPayload_frPlen, BitVec.toNat_ofNat]
  omega

/-- A wire frame among the readable bytes is found, and so are the values its units carry. -/
theorem State.frameInSource_of_frame {wt wf wl wc : List Byte} {t f cnt c : Byte} {us : List (List Byte × Byte)}
    (ht : WireUnit s.params wt t) (hf : WireUnit s.params wf f) (hl : WireUnit s.params wl cnt)
    (hc : WireUnit s.params wc c) (hus : UnitsOk s.params us) (hcnt : (unitBytes us).length = cnt.toNat)
    (hctl : s.srcCtl = 1#1)
    (hrd : ReadsAt s.srcByte 0 ([s.params.stx] ++ wt ++ wf ++ wl ++ unitBytes us ++ wc ++ [s.params.etx]))
    (hcap : us.length ≤ s.scrCap) :
    s.frameInSource = .ok { type := t, flags := f, chk := c, cnt := cnt, payload := unitValues us } := by
  obtain ⟨rp, re, hregion, hchk, hend, -⟩ := readsAt_frame ht hf hl hc hus hcnt hrd
  rw [State.frameInSource_of_present hctl]
  exact parseFrame_eq_ok_iff_region.2 ⟨rp, hregion, by rwa [length_unitValues], re, hchk, hend⟩

end

/-- Settles O35: the units are the fields, the region and the checksum that the commit stores. -/
theorem decodeAcceptsEveryWireFrame : Obligations.DecodeAcceptsEveryWireFrame := by
  intro s wt wf wl wc t f cnt c us ht hf hl hc hus hcnt wire hctl hlen hshows hcap
  have hd := State.frameInSource_of_frame ht hf hl hc hus hcnt hctl (hshows.readsAt hlen) hcap
  refine ⟨_, exec_decode_of_ok hd, ?registers, ?length, State.commitFrame_memRead_scr hd⟩
  case registers =>
    rw [State.commitFrame_of_frameInSource hd, length_unitValues]
    rfl
  case length => rw [State.commitFrame_frPlen hd, length_unitValues]

/-- `DECODE` ends in `OK` only by committing the frame that it found. -/
theorem exec_decode_of_Ok {s t : State} (h : exec .decode s = .next t) (hok : t.Ok) :
    ∃ d, s.frameInSource = .ok d ∧ t = s.commitFrame d := by
  rcases exec_decode_cases s with ⟨e, -, hs⟩ | ⟨d, hd, hs⟩
  · obtain rfl : s.setStatus (errorCode e) = t := by simpa [hs] using h
    exact absurd hok (errorCode_ne_zero e)
  · exact ⟨d, hd, by simpa [hs] using h.symm⟩

theorem State.shows_of_readsAt {s : State} {bs : List Byte} (h : ReadsAt s.srcByte 0 bs) : s.Shows .src bs := by
  intro k hk
  have hbyte : s.srcByte (0 + k) = bs[k]? := readsAt_iff.1 h k hk
  have hlen := State.srcLen_of_readsAt h
  rw [← hbyte, Nat.zero_add, State.srcByte, if_pos (by omega)]

/-- A memory into which bytes were written from address 0 shows them. -/
theorem State.shows_of_memRead {s : State} {sp : MemSpace} {bs : List Byte} {old : Nat → Byte}
    (h : ∀ a, s.memRead sp a = (bs[a]?).getD (old a)) : s.Shows sp bs := by
  intro k hk
  rw [h, List.getElem?_eq_getElem hk, Option.getD_some]

/-- Settles O36: the region that the parse read, the checksum unit and the end delimiter are the frame. -/
theorem decodeAcceptsOnlyWireFrames : Obligations.DecodeAcceptsOnlyWireFrames := by
  intro s u h hok
  obtain ⟨d, hd, rfl⟩ := exec_decode_of_Ok h hok
  obtain ⟨hpresent, hparse⟩ := State.frameInSource_eq_ok.1 hd
  obtain ⟨rp, hregion, hcap, re, hchk, hetx⟩ := parseFrame_eq_ok_iff_region.1 hparse
  obtain ⟨wt, wf, wl, us, ht, hf, hl, hus, hcnt, hq, hhead, rfl⟩ := hregion.exists_units
  obtain ⟨wc, hc, hrc, rfl⟩ := exists_wireUnit_of_takeField hchk
  have hread : ReadsAt s.srcByte 0 ([s.params.stx] ++ wt ++ wf ++ wl ++ unitBytes us ++ wc ++ [s.params.etx]) := by
    rw [readsAt_append, readsAt_append (as := _ ++ unitBytes us), List.length_append (bs := wc), Nat.zero_add,
      Nat.zero_add]
    exact ⟨⟨hhead, hrc⟩, hetx, trivial⟩
  have hlen : d.payload.length = us.length := by rw [← hq, length_unitValues]
  obtain ⟨-, htype, hflags, hchecksum, hview⟩ := State.commitFrame_registers hd
  rw [← htype] at ht
  rw [← hflags] at hf
  rw [← hchecksum] at hc
  refine ⟨wt, wf, wl, wc, d.cnt, us, ht, hf, hl, hc, hus, hcnt, (present_iff _).1 hpresent,
    State.srcLen_of_readsAt hread, State.shows_of_readsAt hread, ?length, hlen ▸ hcap, ?payload, hview⟩
  case length => rw [State.commitFrame_frPlen hd, hlen]
  case payload => exact hq ▸ State.shows_of_memRead (State.commitFrame_memRead_scr hd)

/-! ### Bytes beyond `SRC_LEN` -/

/-- Settles O41: the bounded read sees no difference, so the two parses are one. -/
theorem bytesBeyondSourceLengthHaveNoInfluence : Obligations.BytesBeyondSourceLengthHaveNoInfluence := by
  intro s t src' hsame h
  have hrd : ({ s with src := src' } : State).srcByte = s.srcByte := by
    funext k
    unfold State.srcByte
    exact ite_congr rfl (fun hk => congrArg some (hsame k hk)) fun _ => rfl
  have hframe : ({ s with src := src' } : State).frameInSource = s.frameInSource := by
    unfold State.frameInSource
    rw [hrd]
  rcases exec_decode_cases s with ⟨e, he, hs⟩ | ⟨d, hd, -⟩
  · obtain rfl : s.setStatus (errorCode e) = t := by simpa [hs] using h
    exact exec_decode_of_error (hframe.trans he)
  · rw [exec_decode_ok hd] at h
    cases h
    exact exec_decode_ok (hframe.trans hd)

/-! ### The round trip -/

/-- The units that `ENCODE` writes for a payload. -/
def stuffedUnits (p : Params) (bs : List Byte) : List (List Byte × Byte) := bs.map fun b => (stuff p b, b)

section
variable (p : Params) (bs : List Byte)

@[simp] theorem unitBytes_stuffedUnits : unitBytes (stuffedUnits p bs) = stuffAll p bs := by
  simp [unitBytes, stuffedUnits, stuffAll, List.flatMap_map]

@[simp] theorem unitValues_stuffedUnits : unitValues (stuffedUnits p bs) = bs := by
  simp [unitValues, stuffedUnits, Function.comp_def]

@[simp] theorem length_stuffedUnits : (stuffedUnits p bs).length = bs.length := by simp [stuffedUnits]

theorem unitsOk_stuffedUnits : UnitsOk p (stuffedUnits p bs) := by
  simp [UnitsOk, stuffedUnits, wireUnit_stuff]

end

theorem State.emitFrame_shows (s : State) (fr : List Byte) : (s.emitFrame fr).Shows .dst fr :=
  State.shows_of_memRead (s.emitFrame_memRead_dst fr)

/-- The length field is 0 exactly for an empty payload: every logical byte costs a wire byte. -/
theorem State.lengthField_eq_zero_iff {p : Params} {s : State} (hlen : wireLen p s.payload ≤ 255) :
    BitVec.ofNat 8 (wireLen p s.payload) = 0x00#8 ↔ s.frPlen = 0x00#8 := by
  have hR := List.length_filter_le (isRsv p) s.payload
  rw [wireLen_eq, State.length_payload] at hlen ⊢
  rw [State.length_payload] at hR
  simp only [← BitVec.toNat_inj, BitVec.toNat_ofNat]
  omega

/-- The parse inverts the frame that `ENCODE` writes: its units are the canonical ones. -/
theorem State.frameInSource_of_wireFrame {s : State} {t f c : Byte} {q : List Byte} (hctl : s.srcCtl = 1#1)
    (hlen : wireLen s.params q ≤ 255) (hrd : ReadsAt s.srcByte 0 (wireFrame s.params t f c q))
    (hcap : q.length ≤ s.scrCap) :
    s.frameInSource = .ok
      { type := t, flags := f, chk := transmittedChecksum s.params f c, cnt := BitVec.ofNat 8 (wireLen s.params q)
        payload := q } := by
  have hcnt : (unitBytes (stuffedUnits s.params q)).length = (BitVec.ofNat 8 (wireLen s.params q)).toNat := by
    rw [unitBytes_stuffedUnits, length_stuffAll, BitVec.toNat_ofNat, Nat.mod_eq_of_lt (by omega)]
  have hframe := State.frameInSource_of_frame (wireUnit_stuff s.params t) (wireUnit_stuff s.params f) (.inr rfl)
    (wireUnit_stuff s.params (transmittedChecksum s.params f c)) (unitsOk_stuffedUnits s.params q) hcnt hctl
    (by rwa [unitBytes_stuffedUnits]) (by rwa [length_stuffedUnits])
  rwa [unitValues_stuffedUnits] at hframe

/-- Settles O42: the source holds the emitted frame, and the commit stores what the parse finds there. -/
theorem decodeInvertsEncode : Obligations.DecodeInvertsEncode := by
  intro s t d h hok hparams hctl hlen hcopy hcap
  obtain ⟨hwire, rfl⟩ := exec_encode_eq_emitFrame h hok
  have hshows : d.Shows .src (wireFrame s.params s.frType s.frFlags s.frChk s.payload) := fun k hk =>
    (s.emitFrame_shows _ k hk).trans (congrArg some (hcopy k hk).symm)
  rw [← hparams] at hwire hshows hlen
  have hd := State.frameInSource_of_wireFrame hctl hwire (hshows.readsAt hlen) (by rwa [State.length_payload])
  obtain ⟨hdone, htype, hflags, hchk, hview⟩ := State.commitFrame_registers hd
  refine ⟨_, exec_decode_of_ok hd, hdone, htype, hflags, ?length,
    State.shows_of_memRead (State.commitFrame_memRead_scr hd), ?chk, ?view⟩
  case length => exact BitVec.eq_of_toNat_eq ((State.commitFrame_frPlen hd).trans s.length_payload)
  case chk => rw [hchk, hparams, transmittedChecksum_eq_ite]
  case view => exact hview.trans (if_congr (State.lengthField_eq_zero_iff hwire) rfl rfl)

end Sys2Proof.Machine

/-! What every command writes and reads (30_encoding.md R64; 20_memory.md R44), and what `ENCODE` makes of its operands
(42_encode.md section 3). -/

namespace Sys2Proof.Machine

/-! ### What each update leaves in the registers -/

section
variable (s : State) (r : Reg)

theorem State.setStatus_readReg (c : Byte) :
    (s.setStatus c).readReg r = if r = .status then c.toNat else s.readReg r := by cases r <;> rfl

theorem State.setPred_readReg (b : BitVec 1) :
    (s.setPred b).readReg r = if r = .pred then b.toNat else s.readReg r := by cases r <;> rfl

theorem State.setWritten_readReg (n : Nat) :
    (s.setWritten n).readReg r = if r = .written then n else s.readReg r := by cases r <;> rfl

theorem State.setStuffed_readReg (b0 b1 : Byte) (n : BitVec 2) :
    (s.setStuffed b0 b1 n).readReg r
      = if r = .stOut0 then b0.toNat else if r = .stOut1 then b1.toNat else if r = .stN then n.toNat
        else s.readReg r := by cases r <;> rfl

theorem State.setUnstuffed_readReg (v : Byte) (k : BitVec 2) :
    (s.setUnstuffed v k).readReg r
      = if r = .unByte then v.toNat else if r = .unConsumed then k.toNat else s.readReg r := by cases r <;> rfl

theorem State.setHeader_readReg (t f c : Byte) :
    (s.setHeader t f c).readReg r
      = if r = .frType then t.toNat else if r = .frFlags then f.toNat else if r = .frChk then c.toNat
        else s.readReg r := by cases r <;> rfl

theorem State.setPayload_readReg (n : Byte) (view : BitVec 2) :
    (s.setPayload n view).readReg r
      = if r = .frPlen then n.toNat else if r = .frPview then view.toNat else s.readReg r := by cases r <;> rfl

end

/-! ### Every command writes its results only -/

/-- `t` is `s` but for the registers `rs` and the memories `sps`. -/
structure KeepsOutside (rs : List Reg) (sps : List MemSpace) (s t : State) : Prop where
  readReg : ∀ r, r ∉ rs → t.readReg r = s.readReg r
  mem : ∀ sp, sp ∉ sps → t.mem sp = s.mem sp
  params : t.params = s.params
  pending : t.pending = s.pending

theorem KeepsOutside.refl (rs : List Reg) (sps : List MemSpace) (s : State) : KeepsOutside rs sps s s :=
  ⟨fun _ _ => rfl, fun _ _ => rfl, rfl, rfl⟩

section
variable {rs : List Reg} {sps : List MemSpace} {s t : State} (h : KeepsOutside rs sps s t)
include h

theorem KeepsOutside.setStatus (hr : .status ∈ rs) (c : Byte) : KeepsOutside rs sps s (t.setStatus c) where
  readReg r hout := by rw [t.setStatus_readReg, if_neg (ne_of_mem_of_not_mem hr hout).symm, h.readReg r hout]
  mem sp hout := by rw [t.setStatus_mem, h.mem sp hout]
  params := h.params
  pending := h.pending

theorem KeepsOutside.setPred (hr : .pred ∈ rs) (b : BitVec 1) : KeepsOutside rs sps s (t.setPred b) where
  readReg r hout := by rw [t.setPred_readReg, if_neg (ne_of_mem_of_not_mem hr hout).symm, h.readReg r hout]
  mem sp hout := by rw [t.setPred_mem, h.mem sp hout]
  params := h.params
  pending := h.pending

theorem KeepsOutside.setWritten (hr : .written ∈ rs) (n : Nat) : KeepsOutside rs sps s (t.setWritten n) where
  readReg r hout := by rw [t.setWritten_readReg, if_neg (ne_of_mem_of_not_mem hr hout).symm, h.readReg r hout]
  mem sp hout := by rw [t.setWritten_mem, h.mem sp hout]
  params := h.params
  pending := h.pending

theorem KeepsOutside.setStuffed (h0 : .stOut0 ∈ rs) (h1 : .stOut1 ∈ rs) (hn : .stN ∈ rs) (b0 b1 : Byte)
    (n : BitVec 2) : KeepsOutside rs sps s (t.setStuffed b0 b1 n) where
  readReg r hout := by
    rw [t.setStuffed_readReg, if_neg (ne_of_mem_of_not_mem h0 hout).symm, if_neg (ne_of_mem_of_not_mem h1 hout).symm,
      if_neg (ne_of_mem_of_not_mem hn hout).symm, h.readReg r hout]
  mem sp hout := by rw [t.setStuffed_mem, h.mem sp hout]
  params := h.params
  pending := h.pending

theorem KeepsOutside.setUnstuffed (hv : .unByte ∈ rs) (hk : .unConsumed ∈ rs) (v : Byte) (k : BitVec 2) :
    KeepsOutside rs sps s (t.setUnstuffed v k) where
  readReg r hout := by
    rw [t.setUnstuffed_readReg, if_neg (ne_of_mem_of_not_mem hv hout).symm, if_neg (ne_of_mem_of_not_mem hk hout).symm,
      h.readReg r hout]
  mem sp hout := by rw [t.setUnstuffed_mem, h.mem sp hout]
  params := h.params
  pending := h.pending

theorem KeepsOutside.setHeader (ht : .frType ∈ rs) (hf : .frFlags ∈ rs) (hc : .frChk ∈ rs) (ty f c : Byte) :
    KeepsOutside rs sps s (t.setHeader ty f c) where
  readReg r hout := by
    rw [t.setHeader_readReg, if_neg (ne_of_mem_of_not_mem ht hout).symm, if_neg (ne_of_mem_of_not_mem hf hout).symm,
      if_neg (ne_of_mem_of_not_mem hc hout).symm, h.readReg r hout]
  mem sp hout := by rw [t.setHeader_mem, h.mem sp hout]
  params := h.params
  pending := h.pending

theorem KeepsOutside.setPayload (hn : .frPlen ∈ rs) (hv : .frPview ∈ rs) (n : Byte) (view : BitVec 2) :
    KeepsOutside rs sps s (t.setPayload n view) where
  readReg r hout := by
    rw [t.setPayload_readReg, if_neg (ne_of_mem_of_not_mem hn hout).symm, if_neg (ne_of_mem_of_not_mem hv hout).symm,
      h.readReg r hout]
  mem sp hout := by rw [t.setPayload_mem, h.mem sp hout]
  params := h.params
  pending := h.pending

theorem KeepsOutside.setMem {sp : MemSpace} (hsp : sp ∈ sps) (m : Memory) :
    KeepsOutside rs sps s (t.setMem sp m) where
  readReg r hout := by rw [t.setMem_readReg, h.readReg r hout]
  mem sp' hout := by rw [t.setMem_mem_other (ne_of_mem_of_not_mem hsp hout).symm, h.mem sp' hout]
  params := by rw [t.setMem_params, h.params]
  pending := by rw [t.setMem_pending, h.pending]

end

/-- Each branch of a command is a chain of updates of its result registers and memories. -/
theorem exec_keepsOutside (i : Instr) (s : State) :
    ∃ t, exec i s = .next t ∧ KeepsOutside (resultRegs i) (resultSpaces i) s t := by
  have hs := KeepsOutside.refl (resultRegs i) (resultSpaces i) s
  cases i with
  | isEsc | isStx | isEtx | isRsv => exact ⟨_, rfl, (hs.setPred (by decide) _).setStatus (by decide) _⟩
  | stuff =>
    have hanswer := fun b0 b1 n =>
      (hs.setStuffed (by decide) (by decide) (by decide) b0 b1 n).setStatus (by decide) 0x00#8
    rcases exec_stuff_cases s with ⟨-, ht⟩ | ⟨-, ht⟩
    · exact ⟨_, ht, hanswer _ _ _⟩
    · exact ⟨_, ht, hanswer _ _ _⟩
  | unstuff => exact ⟨_, rfl, (hs.setUnstuffed (by decide) (by decide) _ _).setStatus (by decide) _⟩
  | encode =>
    rcases exec_encode_cases s with ⟨e, -, ht⟩ | ⟨fr, -, ht⟩
    · exact ⟨_, ht, hs.setStatus (by decide) _⟩
    · exact ⟨_, ht, ((hs.setMem (by decide) _).setWritten (by decide) _).setStatus (by decide) _⟩
  | decode =>
    rcases exec_decode_cases s with ⟨e, -, ht⟩ | ⟨d, hd, ht⟩
    · exact ⟨_, ht, hs.setStatus (by decide) _⟩
    · rw [State.commitFrame_of_frameInSource hd] at ht
      have hscr := hs.setMem (sp := .scr) (by decide) ((s.mem .scr).writeBytes 0 d.payload)
      have hheader := hscr.setHeader (by decide) (by decide) (by decide) d.type d.flags d.chk
      exact ⟨_, ht, (hheader.setPayload (by decide) (by decide) _ _).setStatus (by decide) _⟩
  | emptyFrame =>
    have hheader := hs.setHeader (by decide) (by decide) (by decide) s.params.typeNone 0x00#8 0x00#8
    exact ⟨_, rfl, (hheader.setPayload (by decide) (by decide) _ _).setStatus (by decide) _⟩
  | attachPayload =>
    rcases exec_attachPayload_cases s with ⟨-, ht⟩ | ⟨-, -, ht⟩ | ⟨-, -, ht⟩
    · exact ⟨_, ht, hs.setStatus (by decide) _⟩
    · exact ⟨_, ht, hs.setStatus (by decide) _⟩
    · exact ⟨_, ht, (hs.setPayload (by decide) (by decide) _ _).setStatus (by decide) _⟩

/-- Settles O49: the command's answer keeps what lies outside its results, and it is the only answer. -/
theorem commandsWriteTheirResultsOnly : Obligations.CommandsWriteTheirResultsOnly := by
  intro i s t h
  obtain ⟨t', ht', hkeep⟩ := exec_keepsOutside i s
  obtain rfl : t' = t := by simpa [ht'] using h
  exact ⟨hkeep.readReg, hkeep.mem, hkeep.params, hkeep.pending⟩

/-! ### The bytes that `ENCODE` and `DECODE` write -/

/-- Settles O50: a failure only raises its error; emitting or committing writes the frame, or the payload, from address
0 on, and reads behind it find what was there. -/
theorem commandsWriteInsideTheirFootprint : Obligations.CommandsWriteInsideTheirFootprint := by
  refine fun s t => ⟨fun h => ?encode, fun h => ?decode⟩
  case encode =>
    rcases exec_encode_cases s with ⟨e, -, ht⟩ | ⟨fr, hfr, ht⟩
    · obtain rfl : s.setStatus (errorCode e) = t := by simpa [ht] using h
      exact ⟨fun hok => absurd hok (errorCode_ne_zero e), fun a _ => s.setStatus_memRead _ _ a⟩
    · obtain rfl : s.emitFrame fr = t := by simpa [ht] using h
      obtain ⟨-, -, -, hcap, -, -⟩ := State.frameToEmit_ok hfr
      refine ⟨fun _ => hcap, fun a ha => ?_⟩
      have hbeyond : fr.length ≤ a := ha.resolve_left (not_not_intro rfl)
      rw [State.emitFrame_memRead_dst, List.getElem?_eq_none hbeyond, Option.getD_none]
  case decode =>
    rcases exec_decode_cases s with ⟨e, -, ht⟩ | ⟨d, hd, ht⟩
    · obtain rfl : s.setStatus (errorCode e) = t := by simpa [ht] using h
      exact ⟨fun hok => absurd hok (errorCode_ne_zero e), fun a _ => s.setStatus_memRead _ _ a⟩
    · obtain rfl : s.commitFrame d = t := by simpa [ht] using h
      obtain ⟨hcap, -, -⟩ := parseFrame_payload_length (State.frameInSource_eq_ok.1 hd).2
      obtain ⟨hok, -⟩ := State.commitFrame_registers hd
      rw [State.commitFrame_frPlen hd]
      refine ⟨fun _ => hcap, fun a ha => ?_⟩
      have hbeyond : d.payload.length ≤ a := ha.resolve_left (not_not_intro hok)
      rw [State.commitFrame_memRead_scr hd, List.getElem?_eq_none hbeyond, Option.getD_none]

/-! ### The operands of `ENCODE` -/

/-- The tests and the frame of `ENCODE` depend on its operands: the checksum that is transmitted among them, not
`FR_CHK` itself (42_encode.md R114). -/
theorem State.frameToEmit_congr {s s' : State} (hparams : s'.params = s.params) (htype : s'.frType = s.frType)
    (hflags : s'.frFlags = s.frFlags)
    (hchk : transmittedChecksum s.params s.frFlags s'.frChk = transmittedChecksum s.params s.frFlags s.frChk)
    (hpayload : s'.payload = s.payload) (hplen : s'.frPlen = s.frPlen)
    (hview : viewValid s'.frPview = viewValid s.frPview) (hctl : s'.dstCtl = s.dstCtl) (hcap : s'.dstCap = s.dstCap) :
    s'.frameToEmit = s.frameToEmit := by
  have hframe : wireFrame s'.params s'.frType s'.frFlags s'.frChk s'.payload
      = wireFrame s.params s.frType s.frFlags s.frChk s.payload := by
    simp only [wireFrame, hparams, htype, hflags, hchk, hpayload]
  unfold State.frameToEmit
  rw [hframe, hparams, hpayload, hplen, hview, hctl, hcap]

/-- Settles O31: the flag replaces either checksum by 0 on the wire, and `FR_CHK` is kept. -/
theorem ignoredChecksumHasNoInfluence : Obligations.IgnoredChecksumHasNoInfluence := by
  intro s t c hflag h
  have hframe : ({ s with frChk := c } : State).frameToEmit = s.frameToEmit :=
    State.frameToEmit_congr rfl rfl rfl (by rw [transmittedChecksum_eq_ite, transmittedChecksum_eq_ite, if_pos hflag,
      if_pos hflag]) rfl rfl rfl rfl rfl
  rcases exec_encode_cases s with ⟨e, he, ht⟩ | ⟨fr, hfr, ht⟩
  · obtain rfl : s.setStatus (errorCode e) = t := by simpa [ht] using h
    exact exec_encode_of_error (hframe.trans he)
  · obtain rfl : s.emitFrame fr = t := by simpa [ht] using h
    exact exec_encode_of_ok (hframe.trans hfr)

/-- Settles O33: equal operands give one answer of the tests, and one frame to emit. -/
theorem encodeDependsOnItsOperandsOnly : Obligations.EncodeDependsOnItsOperandsOnly := by
  intro s s' t t' hparams htype hflags hchk hpayload hplen hview hctl hcap h h'
  have hframe : s.frameToEmit = s'.frameToEmit :=
    State.frameToEmit_congr hparams htype hflags (by rw [hchk]) hpayload hplen hview hctl hcap
  rcases exec_encode_cases s with ⟨e, he, ht⟩ | ⟨fr, hfr, ht⟩
  · obtain rfl : s.setStatus (errorCode e) = t := by simpa [ht] using h
    obtain rfl : s'.setStatus (errorCode e) = t' := by simpa [exec_encode_of_error (hframe.symm.trans he)] using h'
    exact ⟨rfl, fun hok => absurd hok (errorCode_ne_zero e)⟩
  · obtain rfl : s.emitFrame fr = t := by simpa [ht] using h
    obtain rfl : s'.emitFrame fr = t' := by simpa [exec_encode_of_ok (hframe.symm.trans hfr)] using h'
    refine ⟨rfl, fun _ => ⟨rfl, fun a (ha : a < fr.length) => ?_⟩⟩
    rw [State.emitFrame_memRead_dst, State.emitFrame_memRead_dst, List.getElem?_eq_getElem ha, Option.getD_some,
      Option.getD_some]

/-! ### The emitted frame, unit by unit -/

/-- What stands between the delimiters of a frame. -/
def innerBytes (p : Params) (t f chk : Byte) (q : List Byte) : List Byte :=
  stuff p t ++ stuff p f ++ [p.esc, BitVec.ofNat 8 (wireLen p q)] ++ stuffAll p q
    ++ stuff p (transmittedChecksum p f chk)

section
variable (p : Params) (t f chk : Byte) (q : List Byte)

theorem wireFrame_eq_innerBytes : wireFrame p t f chk q = [p.stx] ++ innerBytes p t f chk q ++ [p.etx] := by
  simp only [wireFrame, innerBytes, List.append_assoc]

theorem wireUnits_innerBytes :
    wireUnits p (innerBytes p t f chk q)
      = [stuff p t, stuff p f, [p.esc, BitVec.ofNat 8 (wireLen p q)]] ++ q.map (stuff p)
        ++ [stuff p (transmittedChecksum p f chk)] := by
  have hregion : ∀ c, wireUnits p (stuffAll p q ++ stuff p c) = q.map (stuff p) ++ [stuff p c] := fun c => by
    simpa [stuffAll] using wireUnits_stuffAll p (q ++ [c])
  simp only [innerBytes, List.append_assoc]
  rw [wireUnits_append (wireUnit_stuff p t), wireUnits_append (wireUnit_stuff p f), wireUnits_append (.inr rfl),
    hregion]
  rfl

theorem flatten_wireUnits_innerBytes :
    (wireUnits p (innerBytes p t f chk q)).flatten = innerBytes p t f chk q := by
  rw [wireUnits_innerBytes]
  simp [innerBytes, stuffAll, List.flatMap_def]

end

/-- Settles O32: the units are those of `wireUnits_innerBytes`, each of them but the length field stuffed. -/
theorem encodedFrameIsTransparent : Obligations.EncodedFrameIsTransparent := by
  intro s t _ h hok
  obtain ⟨hlen, rfl⟩ := exec_encode_eq_emitFrame h hok
  refine ⟨innerBytes s.params s.frType s.frFlags s.frChk s.payload, _, _, _, _, s.payload.map (stuff s.params),
    ?written, ?shows, flatten_wireUnits_innerBytes _ _ _ _ _, wireUnits_innerBytes _ _ _ _ _, fun u hu => ?canonical,
    ?length⟩
  case written =>
    rw [State.emitFrame_written, wireFrame_eq_innerBytes]
    simp only [List.length_append, List.length_singleton]
    omega
  case shows =>
    rw [← wireFrame_eq_innerBytes]
    exact s.emitFrame_shows _
  case canonical =>
    have hstuffed : ∃ b, stuff s.params b = u := by
      simp only [List.mem_cons, List.mem_map] at hu
      rcases hu with rfl | rfl | rfl | ⟨b, -, rfl⟩ <;> exact ⟨_, rfl⟩
    obtain ⟨b, rfl⟩ := hstuffed
    exact canonicalUnit_stuff s.params b
  case length =>
    rw [← List.flatMap_def, BitVec.toNat_ofNat, Nat.mod_eq_of_lt (by omega)]
    exact (length_stuffAll s.params s.payload).symm

/-! ### The memories that a command reads -/

/-- Replace the four memories. -/
def State.setMems (s : State) (pay scr dst src : Memory) : State :=
  { s with pay := pay, scr := scr, dst := dst, src := src }

theorem exec_setMems_of_not_codec (s : State) (m0 m1 m2 m3 : Memory) {i : Instr} (henc : i ≠ .encode)
    (hdec : i ≠ .decode) :
    ∃ t, exec i s = .next t ∧ exec i (s.setMems m0 m1 m2 m3) = .next (t.setMems m0 m1 m2 m3) := by
  cases i with
  | isEsc | isStx | isEtx | isRsv | unstuff | emptyFrame => exact ⟨_, rfl, rfl⟩
  | stuff =>
    cases h : isRsv s.params s.byteIn
    · exact ⟨_, exec_stuff_of_plain h, exec_stuff_of_plain h⟩
    · exact ⟨_, exec_stuff_of_reserved h, exec_stuff_of_reserved h⟩
  | encode => exact absurd rfl henc
  | decode => exact absurd rfl hdec
  | attachPayload =>
    cases h : viewValid s.argView
    · exact ⟨_, exec_attachPayload_of_null h, exec_attachPayload_of_null h⟩
    · by_cases hn : s.argN = 0x00#8
      · exact ⟨_, exec_attachPayload_of_empty h hn, exec_attachPayload_of_empty h hn⟩
      · exact ⟨_, exec_attachPayload_of_bound h hn, exec_attachPayload_of_bound h hn⟩

/-- The logical payload is the `n` bytes of the view (10_state.md R15). -/
theorem State.payload_congr {s s' : State} (hplen : s'.frPlen = s.frPlen) (hview : s'.frPview = s.frPview)
    (hbytes : ∀ k < s.frPlen.toNat, s'.memRead (viewSpace s.frPview) k = s.memRead (viewSpace s.frPview) k) :
    s'.payload = s.payload := by
  unfold State.payload
  rw [hplen, hview]
  exact List.map_congr_left fun k hk => hbytes k (List.mem_range.1 hk)

/-- Writing bytes from address 0 over two memories: below the bytes' end both read alike. -/
theorem getD_getElem?_eq_ite {bs : List Byte} {a : Nat} {P : Prop} [Decidable P] (hP : P ↔ a < bs.length)
    (x y : Byte) : (bs[a]?).getD x = if P then (bs[a]?).getD y else x := by
  by_cases h : a < bs.length
  · rw [if_pos (hP.2 h), List.getElem?_eq_getElem h, Option.getD_some, Option.getD_some]
  · rw [if_neg (h ∘ hP.1), List.getElem?_eq_none (by omega), Option.getD_none]

section
variable {s t : State} (m0 m1 m2 m3 : Memory)

/-- `ENCODE` over other memories that show the same payload: the same answer, and the same frame written over the
changed `DST`. -/
theorem exec_encode_setMems
    (hview : ∀ k < s.frPlen.toNat,
      (s.setMems m0 m1 m2 m3).memRead (viewSpace s.frPview) k = s.memRead (viewSpace s.frPview) k)
    (h : exec .encode s = .next t) :
    (m2 = s.dst → exec .encode (s.setMems m0 m1 m2 m3) = .next (t.setMems m0 m1 t.dst m3))
      ∧ ∃ t', exec .encode (s.setMems m0 m1 m2 m3) = .next t' ∧ t' = t.setMems m0 m1 t'.dst m3
        ∧ ∀ a, t'.memRead .dst a
          = if t.Ok ∧ a < t.written then t.memRead .dst a else (s.setMems m0 m1 m2 m3).memRead .dst a := by
  have hframe : (s.setMems m0 m1 m2 m3).frameToEmit = s.frameToEmit :=
    State.frameToEmit_congr rfl rfl rfl rfl (State.payload_congr rfl rfl hview) rfl rfl rfl rfl
  rcases exec_encode_cases s with ⟨e, he, ht⟩ | ⟨fr, hfr, ht⟩
  · obtain rfl : s.setStatus (errorCode e) = t := by simpa [ht] using h
    have hs' := exec_encode_of_error (hframe.trans he)
    refine ⟨?same, _, hs', rfl, fun a => ?bytes⟩
    case same =>
      rintro rfl
      exact hs'
    case bytes => rw [if_neg fun hok => errorCode_ne_zero e hok.1, State.setStatus_memRead]
  · obtain rfl : s.emitFrame fr = t := by simpa [ht] using h
    have hs' := exec_encode_of_ok (hframe.trans hfr)
    refine ⟨?same, _, hs', rfl, fun a => ?bytes⟩
    case same =>
      rintro rfl
      exact hs'
    case bytes =>
      rw [State.emitFrame_memRead_dst, State.emitFrame_memRead_dst]
      exact getD_getElem?_eq_ite (and_iff_right rfl) _ _

/-- `DECODE` with the same `SRC` over other memories: the same answer, and the same payload written over the changed
`SCR`. -/
theorem exec_decode_setMems (h : exec .decode s = .next t) :
    (m1 = s.scr → exec .decode (s.setMems m0 m1 m2 s.src) = .next (t.setMems m0 t.scr m2 t.src))
      ∧ ∃ t', exec .decode (s.setMems m0 m1 m2 s.src) = .next t' ∧ t' = t.setMems m0 t'.scr m2 t.src
        ∧ ∀ a, t'.memRead .scr a
          = if t.Ok ∧ a < t.frPlen.toNat then t.memRead .scr a else (s.setMems m0 m1 m2 s.src).memRead .scr a := by
  have hframe : (s.setMems m0 m1 m2 s.src).frameInSource = s.frameInSource := rfl
  rcases exec_decode_cases s with ⟨e, he, ht⟩ | ⟨d, hd, ht⟩
  · obtain rfl : s.setStatus (errorCode e) = t := by simpa [ht] using h
    have hs' := exec_decode_of_error (hframe.trans he)
    refine ⟨?same, _, hs', rfl, fun a => ?bytes⟩
    case same =>
      rintro rfl
      exact hs'
    case bytes => rw [if_neg fun hok => errorCode_ne_zero e hok.1, State.setStatus_memRead]
  · obtain rfl : s.commitFrame d = t := by simpa [ht] using h
    have hd' := hframe.trans hd
    have hs' := exec_decode_of_ok hd'
    obtain ⟨hok, -⟩ := State.commitFrame_registers hd
    refine ⟨?same, _, hs', ?registers, fun a => ?bytes⟩
    case same =>
      rintro rfl
      rw [hs', State.commitFrame_of_frameInSource hd', State.commitFrame_of_frameInSource hd]
      rfl
    case registers =>
      rw [State.commitFrame_of_frameInSource hd', State.commitFrame_of_frameInSource hd]
      rfl
    case bytes =>
      rw [State.commitFrame_memRead_scr hd, State.commitFrame_memRead_scr hd', State.commitFrame_frPlen hd]
      exact getD_getElem?_eq_ite (and_iff_right hok) _ _

end

/-- Settles O51: the eight commands read no memory; the tests of `ENCODE` read the payload alone, those of `DECODE`
`SRC` alone, and what is written over a memory is the same bytes. -/
theorem commandsReadInsideTheirFootprint : Obligations.CommandsReadInsideTheirFootprint := by
  refine ⟨fun i s t m0 m1 m2 m3 henc hdec h => ?others, fun s t m0 m1 m2 m3 => exec_encode_setMems m0 m1 m2 m3,
    fun s t m0 m1 m2 => exec_decode_setMems m0 m1 m2⟩
  case others =>
    obtain ⟨t', ht', hchanged⟩ := exec_setMems_of_not_codec s m0 m1 m2 m3 henc hdec
    obtain rfl : t' = t := by simpa [ht'] using h
    exact hchanged

/-! ### The payload view -/

theorem viewValid_boundView (view : BitVec 2) : viewValid (boundView view) = true := by
  revert view
  decide

/-- A count that is not 0 came with a view of `SCR` (43_decode.md R139). -/
theorem State.commitFrame_view_iff {s : State} {d : DecodedFrame} (hd : s.frameInSource = .ok d) :
    (s.commitFrame d).frPlen ≠ 0x00#8 ↔ viewValid (s.commitFrame d).frPview = true := by
  obtain ⟨-, -, hempty⟩ := parseFrame_payload_length (State.frameInSource_eq_ok.1 hd).2
  obtain ⟨-, -, -, -, hview⟩ := State.commitFrame_registers hd
  have hplen : (s.commitFrame d).frPlen = 0x00#8 ↔ d.cnt = 0x00#8 := by
    rw [← BitVec.toNat_inj, State.commitFrame_frPlen hd, ← hempty]
    exact List.length_eq_zero_iff
  rw [hview, Ne, hplen]
  split
  · rename_i hcnt
    simp [hcnt, viewValid]
  · rename_i hcnt
    simp [hcnt, viewValid]

theorem exec_attachPayload_view {s t : State} (h : exec .attachPayload s = .next t) (hok : t.Ok) :
    t.frPlen ≠ 0x00#8 ∧ viewValid t.frPview = true := by
  rcases exec_attachPayload_cases s with ⟨-, ht⟩ | ⟨-, -, ht⟩ | ⟨-, hn, ht⟩
  · obtain rfl : s.setStatus 0x01#8 = t := by simpa [ht] using h
    exact absurd hok (errorCode_ne_zero .invalidHandle)
  · obtain rfl : s.setStatus 0x02#8 = t := by simpa [ht] using h
    exact absurd hok (errorCode_ne_zero .bufferTooSmall)
  · obtain rfl : (s.setPayload s.argN (boundView s.argView)).setStatus 0x00#8 = t := by simpa [ht] using h
    exact ⟨hn, viewValid_boundView _⟩

theorem exec_emptyFrame_view {s t : State} (h : exec .emptyFrame s = .next t) :
    t.frPlen = 0x00#8 ∧ viewValid t.frPview = false := by
  rw [exec_emptyFrame] at h
  cases h
  exact ⟨rfl, by simp [viewValid]⟩

theorem exec_decode_view {s t : State} (h : exec .decode s = .next t) (hok : t.Ok) :
    t.frPlen ≠ 0x00#8 ↔ viewValid t.frPview = true := by
  obtain ⟨d, hd, rfl⟩ := exec_decode_of_Ok h hok
  exact State.commitFrame_view_iff hd

/-- A command that is none of the three that write the payload registers keeps them. -/
theorem exec_keeps_view {i : Instr} {s t : State} (h : exec i s = .next t) (hplen : .frPlen ∉ resultRegs i)
    (hview : .frPview ∉ resultRegs i) : t.frPlen = s.frPlen ∧ t.frPview = s.frPview := by
  obtain ⟨hregs, -⟩ := commandsWriteTheirResultsOnly i s t h
  exact ⟨BitVec.eq_of_toNat_eq (hregs _ hplen), BitVec.eq_of_toNat_eq (hregs _ hview)⟩

/-- Settles O45: a command keeps the length and the view, or fails with both unchanged, or leaves a pair that meets the
invariant whatever stood there before. -/
theorem commandsKeepThePayloadViewInvariant : Obligations.CommandsKeepThePayloadViewInvariant := by
  refine ⟨fun i s t h hinv => ?keep, fun s t => exec_attachPayload_view, fun s t => exec_emptyFrame_view,
    fun s t => exec_decode_view⟩
  rcases exec_next_cases h with hok | ⟨e, -, rfl⟩
  swap
  · exact hinv
  cases i with
  | decode => exact (exec_decode_view h hok).1
  | emptyFrame => exact fun hn => absurd (exec_emptyFrame_view h).1 hn
  | attachPayload => exact fun _ => (exec_attachPayload_view h hok).2
  | isEsc | isStx | isEtx | isRsv | stuff | unstuff | encode =>
    obtain ⟨hplen, hview⟩ := exec_keeps_view h (by decide) (by decide)
    rwa [hplen, hview]

end Sys2Proof.Machine

/-! The host's side: command codes and scripts (30_encoding.md R61, R82), register accesses (10_state.md R23), and the
runs of sequences of actions (70_reset_and_hazards.md R191). -/

namespace Sys2Proof

/-! ### Command codes -/

/-- Settles O10: a code decodes to the command that it encodes, and to no other. -/
theorem decodeAndEncodeAgree : Obligations.DecodeAndEncodeAgree :=
  ⟨fun _ _ => decode_eq_ok_iff.2 rfl, fun _ _ h => (decode_eq_ok_iff.1 h).symm⟩

/-- A sequence of codes decodes to the script whose codes it is. -/
theorem decodeScript_eq_ok_iff {cs : List Byte} {is : List Instr} :
    decodeScript cs = .ok is ↔ encodeScript is = cs := by
  constructor
  · intro h
    induction cs generalizing is with
    | nil =>
      cases h
      rfl
    | cons c cs ih =>
      unfold decodeScript at h
      split at h
      · cases h
      · rename_i i hi
        split at h
        · cases h
        · rename_i is' his
          cases h
          rw [decode_eq_ok_iff.1 hi, ← ih his]
          rfl
  · rintro rfl
    induction is with
    | nil => rfl
    | cons i is ih =>
      have hi : decode (encode i) = .ok i := decode_eq_ok_iff.2 rfl
      show decodeScript (encode i :: encodeScript is) = _
      simp only [decodeScript, hi, ih]

/-- Settles O11: both directions are `decodeScript_eq_ok_iff`, by induction on the script. -/
theorem scriptCodesRoundTrip : Obligations.ScriptCodesRoundTrip :=
  ⟨fun _ => decodeScript_eq_ok_iff.2 rfl, fun _ _ h => decodeScript_eq_ok_iff.1 h⟩

namespace Machine

/-- Settles O7: the write that `withFetchWord` places is the step's action, and taking it off restores the state. -/
theorem fetchedWordRunsNext : Obligations.FetchedWordRunsNext := by
  intro s nbits w i h
  have hd : decode (tableCode nbits w) = .ok i := by
    unfold decodeTableWord at h
    split at h
    · rename_i j hj
      cases h
      exact hj
    · cases h
  calc step (s.withFetchWord nbits w) = act (issue (tableCode nbits w)) s := step_of_pending rfl
    _ = exec i s := act_issue_of_decode hd s

/-! ### Register numbers -/

theorem regOfNo_regNo (r : Reg) : regOfNo (regNo r) = some r := by cases r <;> rfl

theorem regOfNo_eq_some_iff {no : Nat} {r : Reg} : regOfNo no = some r ↔ regNo r = no := by
  constructor
  · intro h
    unfold regOfNo at h
    split at h <;> cases h <;> rfl
  · rintro rfl
    exact regOfNo_regNo r

theorem regNo_injective : Function.Injective regNo := fun r r' h =>
  Option.some.inj (by rw [← regOfNo_regNo, h, regOfNo_regNo])

theorem regOfNo_of_ne {no : Nat} (h : ∀ r, regNo r ≠ no) : regOfNo no = none :=
  Option.eq_none_iff_forall_ne_some.2 fun r hr => h r (regOfNo_eq_some_iff.1 hr)

theorem regNo_lt (r : Reg) : regNo r < 24 := by cases r <;> decide

/-! ### Register reads -/

/-- A register has no bits beyond its used ones (10_state.md R23). -/
theorem State.readReg_lt {s : State} (h : s.CountsOk) (r : Reg) : s.readReg r < 2 ^ usedBits s.params r := by
  obtain ⟨hdst, hwritten, hsrc, hscr⟩ := h
  cases r with
  | cmd => exact Nat.one_pos
  | dstCap => exact hdst
  | written => exact hwritten
  | srcLen => exact hsrc
  | scrCap => exact hscr
  | _ => exact BitVec.isLt _

/-- Settles O13: a read has no effect, its number selects the register, and no number from 24 up does. -/
theorem hostReadsHaveNoSideEffect : Obligations.HostReadsHaveNoSideEffect := by
  intro s
  refine ⟨fun no rest hp => step_of_pending hp, fun sp a rest hp => step_of_pending hp, rfl, rfl, rfl, rfl, rfl, rfl,
    rfl, rfl, rfl, rfl, rfl, rfl, rfl, rfl, rfl, rfl, rfl, rfl, rfl, rfl, rfl, rfl, rfl, rfl, fun no hno => ?beyond,
    fun r => ?selected, State.readReg_lt⟩
  case beyond =>
    have hnone : regOfNo no = none := regOfNo_of_ne fun r => ((regNo_lt r).trans_le hno).ne
    simp only [State.hostReads, State.readRegNo, hnone]
  case selected => simp only [State.hostReads, State.readRegNo, regOfNo_regNo, Option.getD_some]

/-! ### Register writes -/

section
variable (s : State) (r : Reg) (v : Nat)

theorem State.writeReg_readReg_same :
    (s.writeReg r v).readReg r = if r ∈ readWriteRegs then v % 2 ^ usedBits s.params r else s.readReg r := by
  cases r <;> rfl

/-- A write of one register leaves the 23 others, row by row of the register table. -/
theorem State.writeReg_readReg_other {r' : Reg} (h : r' ≠ r) : (s.writeReg r v).readReg r' = s.readReg r' := by
  have htable : (s.writeReg r v).readReg r' = if r' = r then (s.writeReg r v).readReg r else s.readReg r' := by
    cases r <;> cases r' <;> rfl
  rw [htable, if_neg h]

end

/-- The step that writes a register other than `CMD`. -/
theorem step_of_pending_writeReg {s : State} {no v : Nat} {rest : List HostAction}
    (h : s.pending = .writeReg no v :: rest) (hno : no ≠ 0) :
    step s = .next ((s.setPending rest).writeRegNo no v) := by
  have hcode : commandCode (.writeReg no v) = none := if_neg hno
  rw [step_of_pending h, act, hcode]
  rfl

theorem State.writeRegNo_regNo (s : State) (r : Reg) (v : Nat) : s.writeRegNo (regNo r) v = s.writeReg r v := by
  rw [State.writeRegNo, regOfNo_regNo]

theorem State.writeRegNo_of_none {s : State} {no : Nat} (h : ∀ r, regNo r ≠ no) (v : Nat) :
    s.writeRegNo no v = s := by
  rw [State.writeRegNo, regOfNo_of_ne h]

/-- Settles O12: a number that names a register writes it as its access says, any other number nothing. -/
theorem hostRegisterWriteFollowsAccessRules : Obligations.HostRegisterWriteFollowsAccessRules := by
  intro s no v rest hno hp
  by_cases hreg : ∃ r, regNo r = no
  · obtain ⟨r, rfl⟩ := hreg
    have hs := step_of_pending_writeReg hp hno
    rw [State.writeRegNo_regNo] at hs
    refine ⟨_, hs, fun r' => ?_, fun sp => by simp, by simp, by simp⟩
    by_cases hr : r' = r
    · subst hr
      simp [State.writeReg_readReg_same]
    · have hne : regNo r' ≠ regNo r := regNo_injective.ne hr
      simp [State.writeReg_readReg_other _ _ _ hr, hne]
  · have hnone : ∀ r, regNo r ≠ no := not_exists.1 hreg
    have hs := step_of_pending_writeReg hp hno
    rw [State.writeRegNo_of_none hnone] at hs
    exact ⟨_, hs, fun r => by simp [hnone r], fun sp => by simp, by simp, by simp⟩

/-! ### Counts that fit their register -/

section
variable (s : State) {n : Nat} (h : n < 2 ^ s.params.cw)
include h

theorem State.writeReg_dstCap : s.writeReg .dstCap n = { s with dstCap := n } := by
  rw [State.writeReg, State.countOf_of_lt s h]

theorem State.writeReg_srcLen : s.writeReg .srcLen n = { s with srcLen := n } := by
  rw [State.writeReg, State.countOf_of_lt s h]

theorem State.writeReg_scrCap : s.writeReg .scrCap n = { s with scrCap := n } := by
  rw [State.writeReg, State.countOf_of_lt s h]

end

/-! ### Numbers wider than their register or their memory -/

theorem ofNat_mod_two_pow {w n : Nat} (h : w ≤ n) (v : Nat) : BitVec.ofNat w (v % 2 ^ n) = BitVec.ofNat w v := by
  apply BitVec.eq_of_toNat_eq
  rw [BitVec.toNat_ofNat, BitVec.toNat_ofNat, Nat.mod_mod_of_dvd v (Nat.pow_dvd_pow 2 h)]

/-- A register takes the low bits of a value, and no bit beyond its width (log 6). -/
theorem State.writeReg_mod (s : State) (r : Reg) (v : Nat) :
    s.writeReg r (v % 2 ^ regWidth s.params r) = s.writeReg r v := by
  have hcount : s.countOf (v % 2 ^ s.params.cw) = s.countOf v := Nat.mod_mod v _
  cases r with
  | cmd | status | pred | stOut0 | stOut1 | stN | unByte | unConsumed | written => rfl
  | dstCap => exact congrArg (fun n => { s with dstCap := n }) hcount
  | srcLen => exact congrArg (fun n => { s with srcLen := n }) hcount
  | scrCap => exact congrArg (fun n => { s with scrCap := n }) hcount
  | byteIn | unW0 | unW1 | frType | frFlags | frChk | frPlen | frPview | argView | argN | dstCtl | srcCtl =>
    simp only [State.writeReg, regWidth, List.mem_cons, List.not_mem_nil, reduceCtorEq, or_self, if_false]
    rw [ofNat_mod_two_pow (by decide)]

/-- Writes of `CMD` with the same low 8 bits issue the same command. -/
theorem act_writeReg_cmd_congr {v v' : Nat} (h : BitVec.ofNat 8 v = BitVec.ofNat 8 v') (s : State) :
    act (.writeReg 0 v) s = act (.writeReg 0 v') s := by
  simp only [act, commandCode, if_true, h]

/-- Settles O52: `CMD` and every other register take the low bits, and the memory takes the low bits of the address. -/
theorem wideHostNumbersActAsTheirLowBits : Obligations.WideHostNumbersActAsTheirLowBits := by
  intro s rest
  have haddr : ∀ a, s.hostAddr (a % 2 ^ s.params.aw) = s.hostAddr a := fun a => Nat.mod_mod a _
  refine ⟨fun r v => ?register, fun sp a v => ?write, fun sp a => ?read⟩
  case register =>
    by_cases hr : regNo r = 0
    · obtain rfl : r = .cmd := regNo_injective hr
      rw [step_of_pending rfl, step_of_pending rfl]
      exact act_writeReg_cmd_congr (ofNat_mod_two_pow (n := 8) le_rfl v).symm _
    · rw [step_of_pending_writeReg rfl hr, step_of_pending_writeReg rfl hr, State.writeRegNo_regNo,
        State.writeRegNo_regNo]
      exact congrArg Host.Outcome.next (State.writeReg_mod _ r v).symm
  case write =>
    rw [step_of_pending rfl, step_of_pending rfl]
    exact congrArg (fun n => Host.Outcome.next ((s.setPending rest).memWrite sp n v)) (haddr a).symm
  case read => simp only [State.hostReads, haddr]

/-! ### Runs -/

section
variable {s t u : State}

theorem step_answers (s : State) : ∃ t, step s = .next t := by
  rcases step_cases s with ⟨-, hs⟩ | ⟨a, rest, -, hs⟩
  · exact ⟨s, hs⟩
  · obtain ⟨t, ht⟩ := act_answers a (s.setPending rest)
    exact ⟨t, hs.trans ht⟩

theorem run_succ (h : step s = .next t) (n : Nat) : core.run (n + 1) s = core.run n t := by
  have hcore : core.step s = .next t := h
  simp only [Host.Core.run, hcore]

theorem run_of_no_pending (h : s.pending = []) (n : Nat) : core.run n s = .next s := by
  induction n with
  | zero => rfl
  | succ n ih => rw [run_succ (step_of_no_pending h), ih]

theorem run_add {m : Nat} (h : core.run m s = .next t) (n : Nat) : core.run (m + n) s = core.run n t := by
  induction m generalizing s with
  | zero =>
    cases h
    rw [Nat.zero_add]
  | succ m ih =>
    obtain ⟨u, hu⟩ := step_answers s
    rw [run_succ hu] at h
    rw [Nat.add_right_comm, run_succ hu, ih h]

theorem State.hostEffect_pending (a : HostAction) : (s.hostEffect a).pending = s.pending := by
  cases a with
  | writeReg no v =>
    rw [State.hostEffect, State.writeRegNo]
    split
    · exact s.writeReg_pending _ v
    · rfl
  | writeMem sp a v => exact s.memWrite_pending sp _ v
  | readReg no => rfl
  | readMem sp a => rfl

/-- No action changes the list of those still to come. -/
theorem act_pending {a : HostAction} (h : act a s = .next t) : t.pending = s.pending := by
  rcases act_cases a s with ⟨_, i, -, -, ha⟩ | ⟨_, _, -, -, ha⟩ | ⟨-, ha⟩
  · obtain ⟨-, -, -, hpending⟩ := commandsWriteTheirResultsOnly i s t (ha.symm.trans h)
    exact hpending
  · cases ha.symm.trans h
    rfl
  · cases ha.symm.trans h
    exact State.hostEffect_pending a

end

/-- Settles O5: every step answers and takes one action off the list, and with none left the state stays. -/
theorem everySequenceRunsToItsEnd : Obligations.EverySequenceRunsToItsEnd := by
  intro s
  generalize hp : s.pending = as
  induction as generalizing s with
  | nil => exact ⟨s, hp, fun n _ => run_of_no_pending hp n⟩
  | cons a rest ih =>
    obtain ⟨u, hu⟩ := act_answers a (s.setPending rest)
    have hstep : step s = .next u := (step_of_pending hp).trans hu
    obtain ⟨t, ht, hrun⟩ := ih u (act_pending hu)
    refine ⟨t, ht, fun n hn => ?_⟩
    obtain ⟨k, rfl⟩ : ∃ k, n = k + 1 := Nat.exists_eq_add_one.2 (Nat.lt_of_lt_of_le (Nat.succ_pos _) hn)
    rw [run_succ hstep]
    exact hrun k (Nat.le_of_succ_le_succ hn)

/-! ### Script lines -/

section
variable {s : State} {rest : List HostAction}

/-- `WR reg, v`: one step, which writes the register. -/
theorem run_lineWR {r : Reg} {v : Nat} (h : s.pending = lineWR r v ++ rest) (hr : r ≠ .cmd) (n : Nat) :
    core.run (n + 1) s = core.run n ((s.setPending rest).writeReg r v) := by
  have hstep := step_of_pending_writeReg h (regNo_injective.ne hr)
  rw [State.writeRegNo_regNo] at hstep
  exact run_succ hstep n

/-- `CMD name`: one step, which executes the command. -/
theorem run_lineCMD {i : Instr} {t : State} (h : s.pending = lineCMD i ++ rest)
    (ht : exec i (s.setPending rest) = .next t) (n : Nat) : core.run (n + 1) s = core.run n t := by
  have hstep : step s = .next t :=
    ((step_of_pending h).trans (act_issue_of_decode (decode_eq_ok_iff.2 rfl) _)).trans ht
  exact run_succ hstep n

/-- `WM space, a, bytes`, inside the space: a step for each byte, and together one write of the bytes. -/
theorem run_lineWM {sp : MemSpace} {a : Nat} {bs : List Byte} (h : s.pending = lineWM sp a bs ++ rest)
    (ha : a + bs.length ≤ 2 ^ s.params.aw) :
    core.run bs.length s = .next ((s.setPending rest).setMem sp ((s.mem sp).writeBytes a bs)) := by
  induction bs generalizing s a with
  | nil =>
    obtain rfl : s.pending = rest := h
    cases sp <;> rfl
  | cons b bs ih =>
    rw [List.length_cons] at ha
    have hstep := step_of_pending_writeMem (rest := lineWM sp (a + 1) bs ++ rest) h (by omega)
    rw [List.length_cons, run_succ hstep, ih (a := a + 1) (by simp) (by simp; omega)]
    cases sp <;> rfl

end

/-- Settles O17: the lines of each expansion, one after the other; a byte, and a capacity below `2^CW`, fit their
registers. -/
theorem registerPseudoCommandsConfigure : Obligations.RegisterPseudoCommandsConfigure := by
  intro s t f c cap rest hcap
  refine ⟨fun hp => ?frame, fun hp => ?nopayload, fun hp => ?dstbuf, fun hp => ?scrbuf⟩
  case frame =>
    simp only [lineFRAME, List.append_assoc] at hp
    rw [run_lineWR hp (by decide), run_lineWR rfl (by decide), run_lineWR rfl (by decide)]
    simp only [Host.Core.run, State.writeReg, State.setPending, BitVec.ofNat_toNat, BitVec.setWidth_eq]
  case nopayload =>
    simp only [lineNOPAYLOAD, List.append_assoc] at hp
    rw [run_lineWR hp (by decide), run_lineWR rfl (by decide)]
    rfl
  case dstbuf =>
    simp only [lineDSTBUF, List.append_assoc] at hp
    rw [run_lineWR hp (by decide), State.writeReg_dstCap, run_lineWR rfl (by decide)]
    · rfl
    · exact hcap
  case scrbuf =>
    rw [run_lineWR hp (by decide), State.writeReg_scrCap]
    · rfl
    · exact hcap

/-- Settles O16: the bytes are written from address 0, which `2^CW` bytes of memory hold, and `k` fits `SRC_LEN`. -/
theorem sourcePseudoCommandLoads : Obligations.SourcePseudoCommandLoads := by
  intro s bs rest hwidths hlen hp
  obtain ⟨-, hcw⟩ := hwidths
  simp only [lineSRCBUF, List.append_assoc] at hp
  have hload := run_lineWM hp (by rw [← hcw]; omega)
  refine ⟨{ s with src := s.src.writeBytes 0 bs, srcLen := bs.length, srcCtl := 1#1, pending := rest }, ?run, rfl,
    s.memRead_writeBytes .src bs⟩
  case run =>
    rw [run_add hload, run_lineWR rfl (by decide), State.writeReg_srcLen, run_lineWR rfl (by decide)]
    · simp only [Host.Core.run, State.writeReg, State.setPending, State.setMem, State.mem]
    · exact hlen

/-- The logical payload is what the view's memory shows in the frame's length. -/
theorem State.payload_of_shows {s : State} {sp : MemSpace} {bs : List Byte} (hview : viewSpace s.frPview = sp)
    (hshows : s.Shows sp bs) (hlen : s.frPlen.toNat = bs.length) : s.payload = bs := by
  refine List.ext_getElem? fun k => ?_
  rw [State.payload_getElem?, hlen, hview]
  split
  · rename_i hk
    rw [hshows k hk]
  · rename_i hk
    rw [List.getElem?_eq_none (by omega)]

/-- Settles O15: the bytes lie in `PAY` from address 0, and `ATTACH_PAYLOAD` finds a valid view of `PAY` and a length
that is not 0. -/
theorem payloadPseudoCommandAttaches : Obligations.PayloadPseudoCommandAttaches := by
  intro s bs rest hwidths hpos hlen hp
  obtain ⟨haw, -⟩ := hwidths
  have hspace : 2 ^ 9 ≤ 2 ^ s.params.aw := Nat.pow_le_pow_right (by omega) haw
  simp only [linePAYLOAD, List.append_assoc] at hp
  have hload := run_lineWM hp (by omega)
  have hn : (BitVec.ofNat 8 bs.length).toNat = bs.length := by
    rw [BitVec.toNat_ofNat, Nat.mod_eq_of_lt (by omega)]
  have hne : BitVec.ofNat 8 bs.length ≠ 0x00#8 := fun h0 => by simp [h0] at hn; omega
  let loaded : State :=
    { s with
      pay := s.pay.writeBytes 0 bs, argView := 1#2, argN := BitVec.ofNat 8 bs.length, pending := rest }
  let attached : State := (loaded.setPayload loaded.argN (boundView 1#2)).setStatus 0x00#8
  have hattach : exec .attachPayload loaded = .next attached :=
    exec_attachPayload_of_bound (s := loaded) (show viewValid 1#2 = true by decide) hne
  have hspace : viewSpace attached.frPview = .pay := show viewSpace (boundView 1#2) = .pay by decide
  have hshows : attached.Shows .pay bs := State.shows_of_memRead (s.memRead_writeBytes .pay bs)
  refine ⟨attached, ?run, State.payload_of_shows hspace hshows hn, hn, show boundView 1#2 = 1#2 by decide, rfl, rfl⟩
  case run =>
    rw [run_add hload, run_lineWR rfl (by decide), run_lineWR rfl (by decide)]
    simp only [State.writeReg, State.setPending, State.setMem, State.mem]
    exact run_lineCMD rfl hattach 0

end Machine

end Sys2Proof
